-- ==== Sys2Proof/Word.lean ====
section
/-!
DEFINITION. The word types of the rust-VM execution core: 32-bit register values and
addresses, 8-bit bytes (spec 00_scope.md R7, R10).
-/
namespace Sys2Proof

/-- A register value, an address or an instruction word: 32 bits (R7, R10). -/
abbrev Word := BitVec 32

/-- A memory byte (R28). -/
abbrev Byte := BitVec 8

end Sys2Proof
end

