-- ==== Sys2Proof/Syntax.lean ====
section
/-!
DEFINITION. The instructions of the rust-VM decoder profile, one constructor per row of the
opcode table (spec 30_encoding.md R90), with the operand fields of R85 and R127: an 8-bit
register index (A, B, C), a 16-bit value field (V16) or a 24-bit value field (V24). The enumerations
of R127 that the machine's shared operations take stand beside them.
-/
namespace Sys2Proof

/-- Access width of a data transfer: 4, 2 or 1 bytes (R127, R160). -/
inductive Width where
  | word
  | half
  | byte
  deriving DecidableEq, Repr

/-- Addressing mode, the suffix I, D or R of a mnemonic (R84, R127). -/
inductive Mode where
  | immediate
  | direct
  | register
  deriving DecidableEq, Repr

/-- The four arithmetic operations (R127, R190). -/
inductive AluOp where
  | add
  | sub
  | mul
  | div
  deriving DecidableEq, Repr

/-- The six comparisons (R127, R210). -/
inductive CmpOp where
  | eq
  | neq
  | gt
  | gte
  | lt
  | lte
  deriving DecidableEq, Repr

/-- When a jump is taken: JMP always, JMPE if the flag is set, JMPNE if it is clear (R127, R240). -/
inductive Cond where
  | always
  | ifSet
  | ifClear
  deriving DecidableEq, Repr

/-- An instruction: a row of the opcode table with its operand fields (R85, R86, R90). -/
inductive Instr where
  /-- `IGL`, the reserved illegal opcode: every word with op = 0 (R266). -/
  | igl
  /-- `LDI`: load word, immediate (R161). -/
  | ldi (r : BitVec 8) (v : BitVec 16)
  /-- `LDD`: load word, direct address (R162). -/
  | ldd (r : BitVec 8) (v : BitVec 16)
  /-- `LDR`: load word, register-indirect (R163). -/
  | ldr (r : BitVec 8) (v : BitVec 16)
  /-- `LDHI`: load half-word, immediate (R164). -/
  | ldhi (r : BitVec 8) (v : BitVec 16)
  /-- `LDHD`: load half-word, direct address (R165). -/
  | ldhd (r : BitVec 8) (v : BitVec 16)
  /-- `LDHR`: load half-word, register-indirect (R166). -/
  | ldhr (r : BitVec 8) (v : BitVec 16)
  /-- `LDBI`: load byte, immediate (R167). -/
  | ldbi (r : BitVec 8) (v : BitVec 16)
  /-- `LDBD`: load byte, direct address (R168). -/
  | ldbd (r : BitVec 8) (v : BitVec 16)
  /-- `LDBR`: load byte, register-indirect (R169). -/
  | ldbr (r : BitVec 8) (v : BitVec 16)
  /-- `STRD`: store word, to a direct address (R170). -/
  | strd (r : BitVec 8) (v : BitVec 16)
  /-- `STRR`: store word, register-indirect (R171). -/
  | strr (r : BitVec 8) (v : BitVec 16)
  /-- `STRHD`: store half-word, to a direct address (R172). -/
  | strhd (r : BitVec 8) (v : BitVec 16)
  /-- `STRHR`: store half-word, register-indirect (R173). -/
  | strhr (r : BitVec 8) (v : BitVec 16)
  /-- `STRBD`: store byte, to a direct address (R174). -/
  | strbd (r : BitVec 8) (v : BitVec 16)
  /-- `STRBR`: store byte, register-indirect (R175). -/
  | strbr (r : BitVec 8) (v : BitVec 16)
  /-- `MOV`: copy register `rs` to `rd` (R176). -/
  | mov (rd rs : BitVec 8)
  /-- `ADDI`: add an immediate in place (R191). -/
  | addi (rd : BitVec 8) (v : BitVec 16)
  /-- `ADDD`: add a memory word in place (R192). -/
  | addd (rd : BitVec 8) (v : BitVec 16)
  /-- `ADDR`: add registers (R193). -/
  | addr (rd rs1 rs2 : BitVec 8)
  /-- `SUBI`: subtract an immediate in place (R194). -/
  | subi (rd : BitVec 8) (v : BitVec 16)
  /-- `SUBD`: subtract a memory word in place (R195). -/
  | subd (rd : BitVec 8) (v : BitVec 16)
  /-- `SUBR`: subtract registers (R196). -/
  | subr (rd rs1 rs2 : BitVec 8)
  /-- `MULI`: multiply an immediate in place (R197). -/
  | muli (rd : BitVec 8) (v : BitVec 16)
  /-- `MULD`: multiply a memory word in place (R198). -/
  | muld (rd : BitVec 8) (v : BitVec 16)
  /-- `MULR`: multiply registers (R199). -/
  | mulr (rd rs1 rs2 : BitVec 8)
  /-- `DIVI`: divide an immediate in place (R200). -/
  | divi (rd : BitVec 8) (v : BitVec 16)
  /-- `DIVD`: divide a memory word in place (R201). -/
  | divd (rd : BitVec 8) (v : BitVec 16)
  /-- `DIVR`: divide registers (R202). -/
  | divr (rd rs1 rs2 : BitVec 8)
  /-- `EQI`: set the flag to "equal", against a literal (R211). -/
  | eqi (r : BitVec 8) (v : BitVec 16)
  /-- `EQD`: set the flag to "equal", against a memory word (R212). -/
  | eqd (r : BitVec 8) (v : BitVec 16)
  /-- `EQR`: set the flag to "equal", against a register (R213). -/
  | eqr (r : BitVec 8) (v : BitVec 16)
  /-- `NEQI`: set the flag to "not equal", against a literal (R214). -/
  | neqi (r : BitVec 8) (v : BitVec 16)
  /-- `NEQD`: set the flag to "not equal", against a memory word (R215). -/
  | neqd (r : BitVec 8) (v : BitVec 16)
  /-- `NEQR`: set the flag to "not equal", against a register (R216). -/
  | neqr (r : BitVec 8) (v : BitVec 16)
  /-- `GTI`: set the flag to "greater than", against a literal (R217). -/
  | gti (r : BitVec 8) (v : BitVec 16)
  /-- `GTD`: set the flag to "greater than", against a memory word (R218). -/
  | gtd (r : BitVec 8) (v : BitVec 16)
  /-- `GTR`: set the flag to "greater than", against a register (R219). -/
  | gtr (r : BitVec 8) (v : BitVec 16)
  /-- `GTEI`: set the flag to "greater than or equal", against a literal (R220). -/
  | gtei (r : BitVec 8) (v : BitVec 16)
  /-- `GTED`: set the flag to "greater than or equal", against a memory word (R221). -/
  | gted (r : BitVec 8) (v : BitVec 16)
  /-- `GTER`: set the flag to "greater than or equal", against a register (R222). -/
  | gter (r : BitVec 8) (v : BitVec 16)
  /-- `LTI`: set the flag to "less than", against a literal (R223). -/
  | lti (r : BitVec 8) (v : BitVec 16)
  /-- `LTD`: set the flag to "less than", against a memory word (R224). -/
  | ltd (r : BitVec 8) (v : BitVec 16)
  /-- `LTR`: set the flag to "less than", against a register (R225). -/
  | ltr (r : BitVec 8) (v : BitVec 16)
  /-- `LTEI`: set the flag to "less than or equal", against a literal (R226). -/
  | ltei (r : BitVec 8) (v : BitVec 16)
  /-- `LTED`: set the flag to "less than or equal", against a memory word (R227). -/
  | lted (r : BitVec 8) (v : BitVec 16)
  /-- `LTER`: set the flag to "less than or equal", against a register (R228). -/
  | lter (r : BitVec 8) (v : BitVec 16)
  /-- `JMPI`: jump always, to a literal address (R241). -/
  | jmpi (v : BitVec 24)
  /-- `JMPD`: jump always, to the word stored in memory (R242). -/
  | jmpd (v : BitVec 24)
  /-- `JMPR`: jump always, to a register (R243). -/
  | jmpr (v : BitVec 24)
  /-- `JMPEI`: jump if the flag is true, to a literal address (R244). -/
  | jmpei (v : BitVec 24)
  /-- `JMPED`: jump if the flag is true, to the word stored in memory (R245). -/
  | jmped (v : BitVec 24)
  /-- `JMPER`: jump if the flag is true, to a register (R246). -/
  | jmper (v : BitVec 24)
  /-- `JMPNEI`: jump if the flag is false, to a literal address (R247). -/
  | jmpnei (v : BitVec 24)
  /-- `JMPNED`: jump if the flag is false, to the word stored in memory (R248). -/
  | jmpned (v : BitVec 24)
  /-- `JMPNER`: jump if the flag is false, to a register (R249). -/
  | jmpner (v : BitVec 24)
  /-- `PRTSI`: print the string at a literal address (R261). -/
  | prtsi (v : BitVec 24)
  /-- `PRTSD`: print the string whose address is stored in memory (R262). -/
  | prtsd (v : BitVec 24)
  /-- `PRTSR`: print the string whose address is in a register (R263). -/
  | prtsr (v : BitVec 24)
  /-- `HLT`: halt (R265). -/
  | hlt
  deriving DecidableEq, Repr

end Sys2Proof
end

