-- ==== Sys2Proof/Decode.lean ====
section
/-!
DEFINITION. The decoder and, after it, the encoder (spec 30_encoding.md R80 to R94,
40_fsm_dispatch.md R127 to R130). Decoding is total: any bytes give an instruction or a named reason why
the word is none. Both are written from the tables of R85 and R90.
-/
namespace Sys2Proof

/-- Why bytes decode to no instruction. Each of the first three is a case of R91 and raises
IllegalInstruction in the machine (R272); op = 0 is the instruction `igl` and is not here. Which
name a word of several cases gets is the model's choice and changes no state (log 7). -/
inductive Illegal where
  /-- `23 ≤ op ≤ 63` (R91 b). -/
  | unassignedOpcode
  /-- `md = 0b11` with an assigned opcode (R91 c). -/
  | reservedMode
  /-- A mode the opcode does not have: an immediate store (R91 d), MOV or HLT with `md ≠ 0` (R91 e). -/
  | absentMode
  /-- Not exactly four bytes: no word of R80 at all. Fetch never gives this. -/
  | notOneWord
  deriving DecidableEq, Repr

/-- What a word decodes to (R127): an instruction, or `Illegal`. -/
inductive Decoded where
  | instr (i : Instr)
  | illegal (why : Illegal)
  deriving DecidableEq, Repr

/-! ### Fields of a word (R82, R83) -/

/-- The opcode, `w[31:26]` (R82). -/
def opField (w : Word) : BitVec 6 := w.extractLsb' 26 6

/-- The addressing mode, `w[25:24]` (R82). -/
def mdField (w : Word) : BitVec 2 := w.extractLsb' 24 2

/-- `A = w[23:16]` (R83). -/
def aField (w : Word) : BitVec 8 := w.extractLsb' 16 8

/-- `B = w[15:8]` (R83). -/
def bField (w : Word) : BitVec 8 := w.extractLsb' 8 8

/-- `C = w[7:0]` (R83). -/
def cField (w : Word) : BitVec 8 := w.extractLsb' 0 8

/-- `V16 = w[15:0]` (R83). -/
def v16Field (w : Word) : BitVec 16 := w.extractLsb' 0 16

/-- `V24 = w[23:0]` (R83). -/
def v24Field (w : Word) : BitVec 24 := w.extractLsb' 0 24

/-! ### Byte order (R51, R81) -/

/-- The word of four bytes, the first the most significant (R51, R81). -/
def wordOfBytes (b0 b1 b2 b3 : Byte) : Word := b0 ++ b1 ++ b2 ++ b3

/-- The four bytes of a word, the most significant first (R51). -/
def bytesOfWord (w : Word) : List Byte :=
  [w.extractLsb' 24 8, w.extractLsb' 16 8, w.extractLsb' 8 8, w.extractLsb' 0 8]

/-! ### Decoding (R84, R90, R91, R127) -/

/-- An opcode with modes I, D and R: `md` picks one of three instructions (R84, R90). -/
def pickMode (md : BitVec 2) (i d r : Instr) : Decoded :=
  match md.toNat with
  | 0 => .instr i
  | 1 => .instr d
  | 2 => .instr r
  | _ => .illegal .reservedMode

/-- A store's opcode: modes D and R only (R91 d). -/
def pickStoreMode (md : BitVec 2) (d r : Instr) : Decoded :=
  match md.toNat with
  | 0 => .illegal .absentMode
  | 1 => .instr d
  | 2 => .instr r
  | _ => .illegal .reservedMode

/-- An opcode without a suffix: `md = 0b00` only (R84, R91 e). -/
def pickNoMode (md : BitVec 2) (i : Instr) : Decoded :=
  match md.toNat with
  | 0 => .instr i
  | 1 => .illegal .absentMode
  | 2 => .illegal .absentMode
  | _ => .illegal .reservedMode

/-- The instruction of a word, from its opcode and mode alone, with the operand fields of its class
(R85, R86, R90, R127). Total (R128); reads nothing but the word (R130). -/
def decodeWord (w : Word) : Decoded :=
  match (opField w).toNat with
  | 0 => .instr .igl
  | 1 => pickMode (mdField w) (.ldi (aField w) (v16Field w)) (.ldd (aField w) (v16Field w))
      (.ldr (aField w) (v16Field w))
  | 2 => pickMode (mdField w) (.ldhi (aField w) (v16Field w)) (.ldhd (aField w) (v16Field w))
      (.ldhr (aField w) (v16Field w))
  | 3 => pickMode (mdField w) (.ldbi (aField w) (v16Field w)) (.ldbd (aField w) (v16Field w))
      (.ldbr (aField w) (v16Field w))
  | 4 => pickStoreMode (mdField w) (.strd (aField w) (v16Field w)) (.strr (aField w) (v16Field w))
  | 5 => pickStoreMode (mdField w) (.strhd (aField w) (v16Field w)) (.strhr (aField w) (v16Field w))
  | 6 => pickStoreMode (mdField w) (.strbd (aField w) (v16Field w)) (.strbr (aField w) (v16Field w))
  | 7 => pickNoMode (mdField w) (.mov (aField w) (bField w))
  | 8 => pickMode (mdField w) (.addi (aField w) (v16Field w)) (.addd (aField w) (v16Field w))
      (.addr (aField w) (bField w) (cField w))
  | 9 => pickMode (mdField w) (.subi (aField w) (v16Field w)) (.subd (aField w) (v16Field w))
      (.subr (aField w) (bField w) (cField w))
  | 10 => pickMode (mdField w) (.muli (aField w) (v16Field w)) (.muld (aField w) (v16Field w))
      (.mulr (aField w) (bField w) (cField w))
  | 11 => pickMode (mdField w) (.divi (aField w) (v16Field w)) (.divd (aField w) (v16Field w))
      (.divr (aField w) (bField w) (cField w))
  | 12 => pickMode (mdField w) (.eqi (aField w) (v16Field w)) (.eqd (aField w) (v16Field w))
      (.eqr (aField w) (v16Field w))
  | 13 => pickMode (mdField w) (.neqi (aField w) (v16Field w)) (.neqd (aField w) (v16Field w))
      (.neqr (aField w) (v16Field w))
  | 14 => pickMode (mdField w) (.gti (aField w) (v16Field w)) (.gtd (aField w) (v16Field w))
      (.gtr (aField w) (v16Field w))
  | 15 => pickMode (mdField w) (.gtei (aField w) (v16Field w)) (.gted (aField w) (v16Field w))
      (.gter (aField w) (v16Field w))
  | 16 => pickMode (mdField w) (.lti (aField w) (v16Field w)) (.ltd (aField w) (v16Field w))
      (.ltr (aField w) (v16Field w))
  | 17 => pickMode (mdField w) (.ltei (aField w) (v16Field w)) (.lted (aField w) (v16Field w))
      (.lter (aField w) (v16Field w))
  | 18 => pickMode (mdField w) (.jmpi (v24Field w)) (.jmpd (v24Field w)) (.jmpr (v24Field w))
  | 19 => pickMode (mdField w) (.jmpei (v24Field w)) (.jmped (v24Field w)) (.jmper (v24Field w))
  | 20 => pickMode (mdField w) (.jmpnei (v24Field w)) (.jmpned (v24Field w)) (.jmpner (v24Field w))
  | 21 => pickMode (mdField w) (.prtsi (v24Field w)) (.prtsd (v24Field w)) (.prtsr (v24Field w))
  | 22 => pickNoMode (mdField w) .hlt
  | _ => .illegal .unassignedOpcode

/-- The decoder over bytes in memory order: one big-endian word of exactly four bytes (R80, R81). -/
def decode : List Byte → Decoded
  | [b0, b1, b2, b3] => decodeWord (wordOfBytes b0 b1 b2 b3)
  | _ => .illegal .notOneWord

/-! ### Encoding (R85, R90, R94) -/

/-- Mode number 0b00 (R84). -/
def mdI : BitVec 2 := 0#2

/-- Mode number 0b01 (R84). -/
def mdD : BitVec 2 := 1#2

/-- Mode number 0b10 (R84). -/
def mdR : BitVec 2 := 2#2

/-- A word of class RV: `op·2^26 + md·2^24 + A·2^16 + V16` (R85, R94). -/
def packRV (op : BitVec 6) (md : BitVec 2) (a : BitVec 8) (v : BitVec 16) : Word := op ++ md ++ a ++ v

/-- A word of class RRR: `op·2^26 + md·2^24 + A·2^16 + B·2^8 + C` (R85, R94). Class RR is this with
`C = 0`. -/
def packRRR (op : BitVec 6) (md : BitVec 2) (a b c : BitVec 8) : Word := op ++ md ++ a ++ b ++ c

/-- A word of class A24: `op·2^26 + md·2^24 + V24` (R85, R94). Class NONE is this with `V24 = 0`. -/
def packA24 (op : BitVec 6) (md : BitVec 2) (v : BitVec 24) : Word := op ++ md ++ v

/-- The word of an instruction, its unused bits zero (R93, R94); `igl` is the word the assembler
emits, zero (R266). -/
def encode : Instr → Word
  | .igl => packA24 0 mdI 0
  | .ldi r v => packRV 1 mdI r v
  | .ldd r v => packRV 1 mdD r v
  | .ldr r v => packRV 1 mdR r v
  | .ldhi r v => packRV 2 mdI r v
  | .ldhd r v => packRV 2 mdD r v
  | .ldhr r v => packRV 2 mdR r v
  | .ldbi r v => packRV 3 mdI r v
  | .ldbd r v => packRV 3 mdD r v
  | .ldbr r v => packRV 3 mdR r v
  | .strd r v => packRV 4 mdD r v
  | .strr r v => packRV 4 mdR r v
  | .strhd r v => packRV 5 mdD r v
  | .strhr r v => packRV 5 mdR r v
  | .strbd r v => packRV 6 mdD r v
  | .strbr r v => packRV 6 mdR r v
  | .mov rd rs => packRRR 7 mdI rd rs 0
  | .addi rd v => packRV 8 mdI rd v
  | .addd rd v => packRV 8 mdD rd v
  | .addr rd rs1 rs2 => packRRR 8 mdR rd rs1 rs2
  | .subi rd v => packRV 9 mdI rd v
  | .subd rd v => packRV 9 mdD rd v
  | .subr rd rs1 rs2 => packRRR 9 mdR rd rs1 rs2
  | .muli rd v => packRV 10 mdI rd v
  | .muld rd v => packRV 10 mdD rd v
  | .mulr rd rs1 rs2 => packRRR 10 mdR rd rs1 rs2
  | .divi rd v => packRV 11 mdI rd v
  | .divd rd v => packRV 11 mdD rd v
  | .divr rd rs1 rs2 => packRRR 11 mdR rd rs1 rs2
  | .eqi r v => packRV 12 mdI r v
  | .eqd r v => packRV 12 mdD r v
  | .eqr r v => packRV 12 mdR r v
  | .neqi r v => packRV 13 mdI r v
  | .neqd r v => packRV 13 mdD r v
  | .neqr r v => packRV 13 mdR r v
  | .gti r v => packRV 14 mdI r v
  | .gtd r v => packRV 14 mdD r v
  | .gtr r v => packRV 14 mdR r v
  | .gtei r v => packRV 15 mdI r v
  | .gted r v => packRV 15 mdD r v
  | .gter r v => packRV 15 mdR r v
  | .lti r v => packRV 16 mdI r v
  | .ltd r v => packRV 16 mdD r v
  | .ltr r v => packRV 16 mdR r v
  | .ltei r v => packRV 17 mdI r v
  | .lted r v => packRV 17 mdD r v
  | .lter r v => packRV 17 mdR r v
  | .jmpi v => packA24 18 mdI v
  | .jmpd v => packA24 18 mdD v
  | .jmpr v => packA24 18 mdR v
  | .jmpei v => packA24 19 mdI v
  | .jmped v => packA24 19 mdD v
  | .jmper v => packA24 19 mdR v
  | .jmpnei v => packA24 20 mdI v
  | .jmpned v => packA24 20 mdD v
  | .jmpner v => packA24 20 mdR v
  | .prtsi v => packA24 21 mdI v
  | .prtsd v => packA24 21 mdD v
  | .prtsr v => packA24 21 mdR v
  | .hlt => packA24 22 mdI 0

/-- The bytes of an instruction as memory holds them (R51, R81). -/
def encodeBytes (i : Instr) : List Byte := bytesOfWord (encode i)

/-! ### The opcode table's words -/

/-- The 32-bit word of a row whose bits are `w`, of which the table gives `nbits`: bits above are 0.
The table numbers a word's bits as R9 does, bit 31 the top bit of byte 0. -/
def tableWord (nbits w : Nat) : Word := BitVec.ofNat 32 (w % 2 ^ nbits)

/-- The instruction the decoder reads from a row's word laid out in memory order. -/
def decodeTableWord (nbits w : Nat) : Option Instr :=
  match decode (bytesOfWord (tableWord nbits w)) with
  | .instr i => some i
  | .illegal _ => none

end Sys2Proof
end

