-- ==== Sys2Proof/Config.lean ====
section
/-!
DEFINITION. What an implementation fixes (spec 00_scope.md R8): the ranges of the two open
parameters NUM_REGS and MEM_SIZE, and their reference values. The parameters themselves are
held by the machine's state (the length of its register list, the size of its memory), so a
statement about every state is a statement about all their values. The spec leaves no value
free (93_implementation_defined.md section 1), so there is no opaque constant here.
-/
namespace Sys2Proof

/-- The least number of general registers (R8). -/
def Config.minNumRegs : Nat := 8

/-- The greatest number of general registers: the reach of an 8-bit register field (R8). -/
def Config.maxNumRegs : Nat := 256

/-- The least memory size in bytes (R8). -/
def Config.minMemSize : Nat := 1

/-- The greatest memory size in bytes, `2^32 − 1` (R8). -/
def Config.maxMemSize : Nat := 4294967295

/-- The reference value of NUM_REGS (R8). DESIGN CHOICE for `State.reset` (log 1): unsafe for
a statement that rests on it. -/
def Config.referenceNumRegs : Nat := 8

/-- The reference value of MEM_SIZE (R8). DESIGN CHOICE for `State.reset` (log 1): unsafe for
a statement that rests on it. -/
def Config.referenceMemSize : Nat := 256

/-- NUM_REGS lies in the range of R8. -/
abbrev Config.NumRegsOK (n : Nat) : Prop := Config.minNumRegs ≤ n ∧ n ≤ Config.maxNumRegs

/-- MEM_SIZE lies in the range of R8. -/
abbrev Config.MemSizeOK (n : Nat) : Prop := Config.minMemSize ≤ n ∧ n ≤ Config.maxMemSize

end Sys2Proof
end

