-- ==== Sys2Proof/Machine/State.lean ====
section
/-!
DEFINITION. The machine's state: the tuple of spec 10_state.md R20 and, beside it, the host's input
STOP (60_exceptions.md R273); the reasons a step has no next state; the state after reset.
-/
namespace Sys2Proof.Machine

/-- The FSM state (R25). Only `running` is not terminal. -/
inductive Status where
  | running
  | halted
  | faulted
  | cancelled
  deriving DecidableEq, Repr

/-- The fault reason register (R26): `none` unless the status is `faulted`. -/
inductive Reason where
  | none
  | illegalInstruction
  | outOfBounds
  | divisionByZero
  | unterminatedString
  deriving DecidableEq, Repr

/-- Memory (R28): `size` (MEM_SIZE) bytes at addresses 0 to `size − 1`. `cells` lists, by rising address,
the bytes that are not zero; an address it does not list reads as zero, the value R28 and R30 give a
byte nothing has written. -/
structure Memory where
  size  : Nat
  cells : List Host.Cell
  deriving DecidableEq, Repr

/-- The state of one VM instance (R20), and the host's stop input. NUM_REGS is the length of `regs`
and MEM_SIZE is `mem.size` (log 1). -/
structure State where
  /-- The general registers `x[0] … x[NUM_REGS − 1]` (R21). -/
  regs   : List Word
  /-- The program counter, a byte address (R22). -/
  pc     : Word
  /-- The equality flag: the result of the last comparison of any kind (R24). -/
  flag   : Bool
  /-- Memory, both data and code (R28). -/
  mem    : Memory
  /-- The FSM state (R25). -/
  status : Status
  /-- The fault reason (R26). -/
  reason : Reason
  /-- The output port: the records emitted so far, oldest first (R27). -/
  out    : List (List Byte)
  /-- The MODEL's own field: the samples of STOP in the coming cycles, the next one first, false
  after the list's end (R8, R273; log 3). -/
  stop   : List Bool
  deriving DecidableEq, Repr

/-- Why `step` answers no next state. The spec's own faults are not here: a faulting cycle is a
next state whose status is `faulted` (R270, R276; log 5). -/
inductive Fault where
  /-- Raised by `step` alone, in a state whose status is `halted`, `faulted` or `cancelled`: no step
  leaves a terminal state (R25, R121, R123; log 4). Safe: the model stops where the machine does. -/
  | terminal (status : Status)
  deriving DecidableEq, Repr

/-- Why an instruction has no meaning in the model. Every instruction of the opcode table has
one, so nothing raises this. -/
inductive Refusal where
  /-- Raised by an arm of `exec` whose instruction has no meaning yet; there is none. Safe: the model
  stops where the machine goes on. -/
  | notModelled (mnemonic : String)
  deriving DecidableEq, Repr

/-- The state right after construction from the empty image (R30, R301): registers 0, flag false,
memory zero, status Running, reason None, no output, pc at the empty image's entry 0; NUM_REGS and
MEM_SIZE at the reference values and STOP always false (R8). DESIGN CHOICE for the image and the
parameters (logs 1, 2, 3): a program is loaded from outside, by `State.load`. -/
def State.reset : State where
  regs   := List.replicate Config.referenceNumRegs 0
  pc     := 0
  flag   := false
  mem    := { size := Config.referenceMemSize, cells := [] }
  status := .running
  reason := .none
  out    := []
  stop   := []

end Sys2Proof.Machine
end

