-- ==== Sys2Proof/Machine/Memory.lean ====
section
/-!
DEFINITION. Memory in its canonical form, and the access primitives over it (spec 20_memory.md
R50 to R59). Byte order is decided here and in Decode.lean's `wordOfBytes` and `bytesOfWord`: big-endian.
-/
namespace Sys2Proof.Machine

/-- What an address that nothing lists reads as: zero, the reset contents (R28, R30). -/
def Memory.unlisted : Byte := 0

/-- The byte a cell list holds at an address. -/
def readCell : List Host.Cell → Nat → Byte
  | [], _ => Memory.unlisted
  | (b, v) :: cs, a => if a = b then v else readCell cs a

/-- A cell list with nothing listed at an address, which then reads as an unlisted one. -/
def eraseCell : List Host.Cell → Nat → List Host.Cell
  | [], _ => []
  | (b, w) :: cs, a => if a = b then eraseCell cs a else (b, w) :: eraseCell cs a

/-- A cell list with a byte listed at an address, kept by rising address. -/
def insertCell : List Host.Cell → Nat → Byte → List Host.Cell
  | [], a, v => [(a, v)]
  | (b, w) :: cs, a, v =>
    if a < b then (a, v) :: (b, w) :: cs
    else if a = b then (a, v) :: cs
    else (b, w) :: insertCell cs a v

/-- A cell list with one byte replaced: writing what an unlisted address reads as removes the entry. -/
def writeCell (cs : List Host.Cell) (a : Nat) (v : Byte) : List Host.Cell :=
  if v = Memory.unlisted then eraseCell cs a else insertCell cs a v

/-- The addresses of a cell list rise strictly, start at `lo` or above and end below `size`, and no
entry equals what an unlisted address reads as. -/
def cellsWf (lo size : Nat) : List Host.Cell → Bool
  | [] => true
  | (a, v) :: cs => decide (lo ≤ a) && decide (a < size) && decide (v ≠ Memory.unlisted) && cellsWf (a + 1) size cs

/-- The canonical form: two memories of one size that read the same everywhere are equal data. -/
def Memory.wf (m : Memory) : Bool := cellsWf 0 m.size m.cells

/-- One byte of memory, `mem[a]` (R28). -/
def Memory.byte (m : Memory) (a : Nat) : Byte := readCell m.cells a

/-- `mem[a] <- v` for one byte. -/
def Memory.setByte (m : Memory) (a : Nat) (v : Byte) : Memory :=
  { m with cells := writeCell m.cells a v }

/-- Bytes written at rising addresses, the first at `a`. -/
def Memory.writeBytes (m : Memory) (a : Nat) : List Byte → Memory
  | [] => m
  | v :: vs => (m.setByte a v).writeBytes (a + 1) vs

/-- `InBounds(a, n)`: `a + n ≤ MEM_SIZE` over the natural numbers, so that no check can wrap (R52). -/
def Memory.inBounds (m : Memory) (a n : Nat) : Bool := decide (a + n ≤ m.size)

/-- The number of bytes of an access width (R160). -/
def widthBytes : Width → Nat
  | .word => 4
  | .half => 2
  | .byte => 1

/-- The `n` bytes from address `a` up, the lowest address first. -/
def Memory.bytesFrom (m : Memory) (a : Nat) : Nat → List Byte
  | 0 => []
  | n + 1 => m.byte a :: m.bytesFrom (a + 1) n

/-- The value of `MemRead(a, n)` once it is in bounds: `mem[a] ‖ mem[a+1] ‖ …`, zero-extended to a
register value (R53, R160). -/
def Memory.load (m : Memory) : Width → Nat → Word
  | .word, a => wordOfBytes (m.byte a) (m.byte (a + 1)) (m.byte (a + 2)) (m.byte (a + 3))
  | .half, a => (m.byte a ++ m.byte (a + 1)).zeroExtend 32
  | .byte, a => (m.byte a).zeroExtend 32

/-- The bytes a store of a width writes, the lowest address first: the low 8n bits of the value,
big-endian (R54). -/
def storeBytes : Width → Word → List Byte
  | .word, v => bytesOfWord v
  | .half, v => [v.extractLsb' 8 8, v.extractLsb' 0 8]
  | .byte, v => [v.extractLsb' 0 8]

/-- The effect of `MemWrite(a, n, v)` once it is in bounds (R54). -/
def Memory.store (m : Memory) (wd : Width) (a : Nat) (v : Word) : Memory :=
  m.writeBytes a (storeBytes wd v)

/-- The string scan of R260 from address `k`, `fuel` bytes at most: the bytes before the first zero
byte, or nothing if there is none. -/
def Memory.scanFrom (m : Memory) (k : Nat) : Nat → Option (List Byte)
  | 0 => none
  | fuel + 1 =>
    if m.byte k = 0 then some []
    else (m.scanFrom (k + 1) fuel).map (m.byte k :: ·)

/-- The string that starts at `a`: the bytes up to, not including, the first zero byte at or after `a`
and below MEM_SIZE, if there is one (R260). -/
def Memory.string (m : Memory) (a : Nat) : Option (List Byte) := m.scanFrom a (m.size - a)

end Sys2Proof.Machine
end

