-- ==== Sys2Proof/Machine/Ops.lean ====
section
/-!
DEFINITION. The named operations over the machine's state: registers, program counter, flag, status,
output, raising a fault, and the checked accesses every meaning is built from. A checked
operation takes what follows it as its last argument, and answers the raised state itself where the
check fails, so that the order of the checks is the order in which a meaning is written (spec
00_scope.md R12, 60_exceptions.md R277).
-/
namespace Sys2Proof.Machine

/-- What an instruction or a step answers. -/
abbrev Result := Host.Outcome State Fault Refusal

/-! ### Registers (R21) -/

/-- NUM_REGS. -/
def State.numRegs (s : State) : Nat := s.regs.length

/-- `x[i]` (R21). Below NUM_REGS by the register check (R131); the 0 above it is never used (log 9). -/
def State.reg (s : State) (i : Nat) : Word := s.regs.getD i 0

/-- `x[i] <- v`: the whole register is replaced (R21, R139). -/
def State.setReg (s : State) (i : Nat) (v : Word) : State := { s with regs := s.regs.set i v }

/-- `RegOK(i)` (R21). -/
def State.regOK (s : State) (i : Nat) : Bool := decide (i < s.numRegs)

/-! ### Program counter (R22, R136) -/

/-- `pc <- pc + 4` (R22 a, c). The sum never wraps in a cycle that fetched at `pc` (R23). -/
def State.advance (s : State) : State := { s with pc := s.pc + 4 }

/-- `pc <- target`, with no increment (R22 b). -/
def State.jumpTo (s : State) (target : Word) : State := { s with pc := target }

/-! ### Flag, memory, output, status -/

/-- `flag <- b` (R24). -/
def State.setFlag (s : State) (b : Bool) : State := { s with flag := b }

/-- The memory replaced. -/
def State.setMem (s : State) (m : Memory) : State := { s with mem := m }

/-- `Emit(bytes)`: one record appended to the output port (R27). -/
def State.emit (s : State) (record : List Byte) : State := { s with out := s.out ++ [record] }

/-- `halt`: the status becomes Halted, pc keeps the address of the HLT (R265). -/
def State.halt (s : State) : State := { s with status := .halted }

/-- The host's stop: the status becomes Cancelled and nothing else changes (R273). -/
def State.cancel (s : State) : State := { s with status := .cancelled }

/-! ### Taking a fault (R270, R276, R279) -/

/-- `raise F`: the status becomes Faulted, the reason `F`, and nothing else changes: no state is saved,
pc keeps the address that was fetched and control goes nowhere (R276, R279). The machine has no
return from a fault (R280). -/
def State.raise (s : State) (r : Reason) : State := { s with status := .faulted, reason := r }

/-! ### The host's stop input (R273) -/

/-- What STOP reads in this cycle; false after the list's end (log 3). -/
def State.stopSampled (s : State) : Bool := s.stop.headD false

/-- The state once this cycle has sampled STOP: the sample is used up. -/
def State.afterSample (s : State) : State := { s with stop := s.stop.tail }

/-! ### Checked operations -/

/-- The register check of R131 over the indices an instruction names: OutOfBounds if one is NUM_REGS
or more, before any operand is read. -/
def checkRegs (idx : List Nat) (s : State) (k : Result) : Result :=
  if idx.all s.regOK then k else .next (s.raise .outOfBounds)

/-- `MemRead(a, n)` (R53): OutOfBounds if the access is not in bounds, else what follows gets the
value. -/
def withRead (wd : Width) (a : Word) (s : State) (k : Word → Result) : Result :=
  if s.mem.inBounds a.toNat (widthBytes wd) then k (s.mem.load wd a.toNat)
  else .next (s.raise .outOfBounds)

/-- `MemWrite(a, n, v)` (R54), then the advance of pc: OutOfBounds with no byte written if the access
is not in bounds (R52, R58). -/
def storeAndAdvance (wd : Width) (a : Word) (v : Word) (s : State) : Result :=
  if s.mem.inBounds a.toNat (widthBytes wd) then .next (s.setMem (s.mem.store wd a.toNat v)).advance
  else .next (s.raise .outOfBounds)

/-- `x[r] <- v`, then the advance of pc (R136, R139). -/
def writeAndAdvance (r : Nat) (v : Word) (s : State) : Result := .next (s.setReg r v).advance

/-- `flag <- b`, then the advance of pc (R24, R136). -/
def flagAndAdvance (b : Bool) (s : State) : Result := .next (s.setFlag b).advance

/-- `Scan(a)` (R260), then the advance of pc: OutOfBounds if the start is MEM_SIZE or more,
UnterminatedString if no zero byte follows in memory, else one record is emitted. -/
def scanAndAdvance (a : Word) (s : State) : Result :=
  if a.toNat < s.mem.size then
    match s.mem.string a.toNat with
    | some record => .next (s.emit record).advance
    | none => .next (s.raise .unterminatedString)
  else .next (s.raise .outOfBounds)

end Sys2Proof.Machine
end

