-- ==== Sys2Proof/Machine/Operands.lean ====
section
/-!
DEFINITION. Operand forms: immediates, direct and register operands, effective addresses and jump
targets (spec 30_encoding.md R87 to R89, 40_fsm_dispatch.md R133 to R135).
-/
namespace Sys2Proof.Machine

/-- `zext_32(V16)`: a literal or a direct address of class RV (R87, R88). -/
def zext16 (v : BitVec 16) : Word := v.zeroExtend 32

/-- `zext_32(V24)`: a literal or a direct address of class A24 (R87, R88). -/
def zext24 (v : BitVec 24) : Word := v.zeroExtend 32

/-- The low 8n bits of a value, zero-extended: what an immediate load of a width loads (R160, R87). -/
def truncateTo : Width → Word → Word
  | .word, v => v
  | .half, v => (v.extractLsb' 0 16).zeroExtend 32
  | .byte, v => (v.extractLsb' 0 8).zeroExtend 32

/-- `EA(D, v16)`: the direct address (R134). -/
def eaDirect (v : BitVec 16) : Word := zext16 v

/-- `EA(R, v16)`: the content of the address register (R134). -/
def eaRegister (v : BitVec 16) (s : State) : Word := s.reg v.toNat

/-- `ValRV(m, v16)` (R133): a literal, the 32-bit word at a direct address (OutOfBounds if it is not in
bounds), or the content of a register. -/
def withValRV (m : Mode) (v : BitVec 16) (s : State) (k : Word → Result) : Result :=
  match m with
  | .immediate => k (zext16 v)
  | .direct => withRead .word (zext16 v) s k
  | .register => k (s.reg v.toNat)

/-- `Target24(m, v24)` (R135): a literal address, the word stored at a direct address (OutOfBounds if it
is not in bounds), or the content of a register. -/
def withTarget24 (m : Mode) (v : BitVec 24) (s : State) (k : Word → Result) : Result :=
  match m with
  | .immediate => k (zext24 v)
  | .direct => withRead .word (zext24 v) s k
  | .register => k (s.reg v.toNat)

end Sys2Proof.Machine
end

