-- ==== Sys2Proof/Machine/Flags.lean ====
section
/-!
DEFINITION. What the comparisons write to the flag, when a jump reads it as taken, and the results of
the arithmetic operations (spec 42_arithmetic.md R190, 43_comparison.md R210, 44_control_transfer.md R240).
The flag is the machine's only one: arithmetic has no carry, overflow, sign or zero output (R24, R190).
-/
namespace Sys2Proof.Machine

/-- The boolean result of a comparison `a ⊙ b`, unsigned (R210). -/
def cmpHolds (f : CmpOp) (a b : Word) : Bool :=
  match f with
  | .eq => decide (a.toNat = b.toNat)
  | .neq => decide (a.toNat ≠ b.toNat)
  | .gt => decide (a.toNat > b.toNat)
  | .gte => decide (a.toNat ≥ b.toNat)
  | .lt => decide (a.toNat < b.toNat)
  | .lte => decide (a.toNat ≤ b.toNat)

/-- Whether a jump is taken, from the flag (R240). -/
def condHolds (c : Cond) (flag : Bool) : Bool :=
  match c with
  | .always => true
  | .ifSet => flag
  | .ifClear => !flag

/-- The exact result of an arithmetic operation narrowed to 32 bits: ADD, SUB and MUL modulo 2^32, DIV
the truncated unsigned quotient of a divisor that is not zero (R190). -/
def aluResult (f : AluOp) (a b : Word) : Word :=
  match f with
  | .add => BitVec.ofNat 32 (a.toNat + b.toNat)
  | .sub => BitVec.ofInt 32 ((a.toNat : Int) - (b.toNat : Int))
  | .mul => BitVec.ofNat 32 (a.toNat * b.toNat)
  | .div => BitVec.ofNat 32 (a.toNat / b.toNat)

/-- Whether the operation with this second operand raises DivisionByZero (R190, R275). -/
def aluFaults (f : AluOp) (b : Word) : Bool :=
  match f with
  | .div => decide (b.toNat = 0)
  | .add | .sub | .mul => false

end Sys2Proof.Machine
end

