-- ==== Sys2Proof/Machine/Arithmetic.lean ====
section
/-!
DEFINITION. Arithmetic: ADD, SUB, MUL and DIV in modes I, D and R (spec 42_arithmetic.md R190 to R202). No
instruction of the family writes the flag (R190).
-/
namespace Sys2Proof.Machine

/-- The end of an arithmetic instruction: DivisionByZero for a zero divisor, before any write, else the
result written and pc advanced (R190, R275). -/
def aluAndAdvance (f : AluOp) (rd : Nat) (a b : Word) (s : State) : Result :=
  if aluFaults f b then .next (s.raise .divisionByZero)
  else writeAndAdvance rd (aluResult f a b) s

/-- Modes I and D: `x[rd] <- x[rd] ∘ ValRV(m, v)`, in place (R133, R190). -/
def aluInPlace (f : AluOp) (m : Mode) (rd : BitVec 8) (v : BitVec 16) (s : State) : Result :=
  checkRegs [rd.toNat] s (withValRV m v s fun b => aluAndAdvance f rd.toNat (s.reg rd.toNat) b s)

/-- Mode R: `x[rd] <- x[rs1] ∘ x[rs2]`, the sources' old values when one is the destination (R138, R190). -/
def aluRegisters (f : AluOp) (rd rs1 rs2 : BitVec 8) (s : State) : Result :=
  checkRegs [rd.toNat, rs1.toNat, rs2.toNat] s
    (aluAndAdvance f rd.toNat (s.reg rs1.toNat) (s.reg rs2.toNat) s)

/-- ADDI (R191). -/
def execAddi (rd : BitVec 8) (v : BitVec 16) (s : State) : Result := aluInPlace .add .immediate rd v s

/-- ADDD (R192). -/
def execAddd (rd : BitVec 8) (v : BitVec 16) (s : State) : Result := aluInPlace .add .direct rd v s

/-- ADDR (R193). -/
def execAddr (rd rs1 rs2 : BitVec 8) (s : State) : Result := aluRegisters .add rd rs1 rs2 s

/-- SUBI (R194). -/
def execSubi (rd : BitVec 8) (v : BitVec 16) (s : State) : Result := aluInPlace .sub .immediate rd v s

/-- SUBD (R195). -/
def execSubd (rd : BitVec 8) (v : BitVec 16) (s : State) : Result := aluInPlace .sub .direct rd v s

/-- SUBR (R196). -/
def execSubr (rd rs1 rs2 : BitVec 8) (s : State) : Result := aluRegisters .sub rd rs1 rs2 s

/-- MULI (R197). -/
def execMuli (rd : BitVec 8) (v : BitVec 16) (s : State) : Result := aluInPlace .mul .immediate rd v s

/-- MULD (R198). -/
def execMuld (rd : BitVec 8) (v : BitVec 16) (s : State) : Result := aluInPlace .mul .direct rd v s

/-- MULR (R199). -/
def execMulr (rd rs1 rs2 : BitVec 8) (s : State) : Result := aluRegisters .mul rd rs1 rs2 s

/-- DIVI (R200). -/
def execDivi (rd : BitVec 8) (v : BitVec 16) (s : State) : Result := aluInPlace .div .immediate rd v s

/-- DIVD (R201). -/
def execDivd (rd : BitVec 8) (v : BitVec 16) (s : State) : Result := aluInPlace .div .direct rd v s

/-- DIVR (R202). -/
def execDivr (rd rs1 rs2 : BitVec 8) (s : State) : Result := aluRegisters .div rd rs1 rs2 s

end Sys2Proof.Machine
end

