-- ==== Sys2Proof/Machine/Comparison.lean ====
section
/-!
DEFINITION. Comparison: EQ, NEQ, GT, GTE, LT and LTE in modes I, D and R (spec 43_comparison.md R210 to R228).
The only state written is the flag (R210).
-/
namespace Sys2Proof.Machine

/-- Modes I and D: `flag <- x[r] ⊙ ValRV(m, v)` (R133, R210). -/
def compareValue (f : CmpOp) (m : Mode) (r : BitVec 8) (v : BitVec 16) (s : State) : Result :=
  checkRegs [r.toNat] s (withValRV m v s fun b => flagAndAdvance (cmpHolds f (s.reg r.toNat) b) s)

/-- Mode R: `flag <- x[r] ⊙ x[v]`, both indices checked (R131, R133, R210). -/
def compareRegisters (f : CmpOp) (r : BitVec 8) (v : BitVec 16) (s : State) : Result :=
  checkRegs [r.toNat, v.toNat] s
    (withValRV .register v s fun b => flagAndAdvance (cmpHolds f (s.reg r.toNat) b) s)

/-- EQI (R211). -/
def execEqi (r : BitVec 8) (v : BitVec 16) (s : State) : Result := compareValue .eq .immediate r v s

/-- EQD (R212). -/
def execEqd (r : BitVec 8) (v : BitVec 16) (s : State) : Result := compareValue .eq .direct r v s

/-- EQR (R213). -/
def execEqr (r : BitVec 8) (v : BitVec 16) (s : State) : Result := compareRegisters .eq r v s

/-- NEQI (R214). -/
def execNeqi (r : BitVec 8) (v : BitVec 16) (s : State) : Result := compareValue .neq .immediate r v s

/-- NEQD (R215). -/
def execNeqd (r : BitVec 8) (v : BitVec 16) (s : State) : Result := compareValue .neq .direct r v s

/-- NEQR (R216). -/
def execNeqr (r : BitVec 8) (v : BitVec 16) (s : State) : Result := compareRegisters .neq r v s

/-- GTI (R217). -/
def execGti (r : BitVec 8) (v : BitVec 16) (s : State) : Result := compareValue .gt .immediate r v s

/-- GTD (R218). -/
def execGtd (r : BitVec 8) (v : BitVec 16) (s : State) : Result := compareValue .gt .direct r v s

/-- GTR (R219). -/
def execGtr (r : BitVec 8) (v : BitVec 16) (s : State) : Result := compareRegisters .gt r v s

/-- GTEI (R220). -/
def execGtei (r : BitVec 8) (v : BitVec 16) (s : State) : Result := compareValue .gte .immediate r v s

/-- GTED (R221). -/
def execGted (r : BitVec 8) (v : BitVec 16) (s : State) : Result := compareValue .gte .direct r v s

/-- GTER (R222). -/
def execGter (r : BitVec 8) (v : BitVec 16) (s : State) : Result := compareRegisters .gte r v s

/-- LTI (R223). -/
def execLti (r : BitVec 8) (v : BitVec 16) (s : State) : Result := compareValue .lt .immediate r v s

/-- LTD (R224). -/
def execLtd (r : BitVec 8) (v : BitVec 16) (s : State) : Result := compareValue .lt .direct r v s

/-- LTR (R225). -/
def execLtr (r : BitVec 8) (v : BitVec 16) (s : State) : Result := compareRegisters .lt r v s

/-- LTEI (R226). -/
def execLtei (r : BitVec 8) (v : BitVec 16) (s : State) : Result := compareValue .lte .immediate r v s

/-- LTED (R227). -/
def execLted (r : BitVec 8) (v : BitVec 16) (s : State) : Result := compareValue .lte .direct r v s

/-- LTER (R228). -/
def execLter (r : BitVec 8) (v : BitVec 16) (s : State) : Result := compareRegisters .lte r v s

end Sys2Proof.Machine
end

