-- ==== Sys2Proof/Machine/Control.lean ====
section
/-!
DEFINITION. Control transfer: JMP, JMPE and JMPNE in modes I, D and R (spec 44_control_transfer.md R240 to R249).
A jump writes pc and nothing else; it does not check its target, the next fetch does (R126, R240).
-/
namespace Sys2Proof.Machine

/-- Modes I and D: the target is resolved only if the jump is taken, so a jump that is not taken
accesses no memory (R135, R240). -/
def jumpTarget (c : Cond) (m : Mode) (v : BitVec 24) (s : State) : Result :=
  if condHolds c s.flag then withTarget24 m v s fun t => .next (s.jumpTo t)
  else .next s.advance

/-- Mode R: the register index is checked whether or not the jump is taken (R131, R240). -/
def jumpRegister (c : Cond) (v : BitVec 24) (s : State) : Result :=
  checkRegs [v.toNat] s (jumpTarget c .register v s)

/-- JMPI (R241). -/
def execJmpi (v : BitVec 24) (s : State) : Result := jumpTarget .always .immediate v s

/-- JMPD (R242). -/
def execJmpd (v : BitVec 24) (s : State) : Result := jumpTarget .always .direct v s

/-- JMPR (R243). -/
def execJmpr (v : BitVec 24) (s : State) : Result := jumpRegister .always v s

/-- JMPEI (R244). -/
def execJmpei (v : BitVec 24) (s : State) : Result := jumpTarget .ifSet .immediate v s

/-- JMPED (R245). -/
def execJmped (v : BitVec 24) (s : State) : Result := jumpTarget .ifSet .direct v s

/-- JMPER (R246). -/
def execJmper (v : BitVec 24) (s : State) : Result := jumpRegister .ifSet v s

/-- JMPNEI (R247). -/
def execJmpnei (v : BitVec 24) (s : State) : Result := jumpTarget .ifClear .immediate v s

/-- JMPNED (R248). -/
def execJmpned (v : BitVec 24) (s : State) : Result := jumpTarget .ifClear .direct v s

/-- JMPNER (R249). -/
def execJmpner (v : BitVec 24) (s : State) : Result := jumpRegister .ifClear v s

end Sys2Proof.Machine
end

