-- ==== Sys2Proof/Machine/Special.lean ====
section
/-!
DEFINITION. Special instructions: PRTSI, PRTSD, PRTSR, HLT and IGL (spec 45_special.md R260 to R266).
-/
namespace Sys2Proof.Machine

/-- PRTSI (R261): print the string at a literal address. -/
def execPrtsi (v : BitVec 24) (s : State) : Result :=
  withTarget24 .immediate v s fun a => scanAndAdvance a s

/-- PRTSD (R262): print the string whose address is the word at a direct address. -/
def execPrtsd (v : BitVec 24) (s : State) : Result :=
  withTarget24 .direct v s fun a => scanAndAdvance a s

/-- PRTSR (R263): print the string whose address is in a register. -/
def execPrtsr (v : BitVec 24) (s : State) : Result :=
  checkRegs [v.toNat] s (withTarget24 .register v s fun a => scanAndAdvance a s)

/-- HLT (R265): the status becomes Halted and pc stays. -/
def execHlt (s : State) : Result := .next s.halt

/-- IGL (R266): always raises IllegalInstruction. -/
def execIgl (s : State) : Result := .next (s.raise .illegalInstruction)

end Sys2Proof.Machine
end

