-- ==== Sys2Proof/Machine/Transfer.lean ====
section
/-!
DEFINITION. Data transfer: LD, LDH, LDB, STR, STRH, STRB and MOV (spec 41_data_transfer.md R160 to R176).
No instruction of the family writes the flag or its address register (R160).
-/
namespace Sys2Proof.Machine

/-- A load in mode I: the literal truncated to the width (R160). -/
def loadImmediate (wd : Width) (r : BitVec 8) (v : BitVec 16) (s : State) : Result :=
  checkRegs [r.toNat] s (writeAndAdvance r.toNat (truncateTo wd (zext16 v)) s)

/-- A load from the direct address V16 (R134, R160). -/
def loadDirect (wd : Width) (r : BitVec 8) (v : BitVec 16) (s : State) : Result :=
  checkRegs [r.toNat] s (withRead wd (eaDirect v) s fun t => writeAndAdvance r.toNat t s)

/-- A load from the address in register V16; the address is the old value when the two registers are
one (R134, R138, R160). -/
def loadIndirect (wd : Width) (r : BitVec 8) (v : BitVec 16) (s : State) : Result :=
  checkRegs [r.toNat, v.toNat] s (withRead wd (eaRegister v s) s fun t => writeAndAdvance r.toNat t s)

/-- A store to the direct address V16 (R134, R160). -/
def storeDirect (wd : Width) (r : BitVec 8) (v : BitVec 16) (s : State) : Result :=
  checkRegs [r.toNat] s (storeAndAdvance wd (eaDirect v) (s.reg r.toNat) s)

/-- A store to the address in register V16 (R134, R160). -/
def storeIndirect (wd : Width) (r : BitVec 8) (v : BitVec 16) (s : State) : Result :=
  checkRegs [r.toNat, v.toNat] s (storeAndAdvance wd (eaRegister v s) (s.reg r.toNat) s)

/-- LDI (R161). -/
def execLdi (r : BitVec 8) (v : BitVec 16) (s : State) : Result := loadImmediate .word r v s

/-- LDD (R162). -/
def execLdd (r : BitVec 8) (v : BitVec 16) (s : State) : Result := loadDirect .word r v s

/-- LDR (R163). -/
def execLdr (r : BitVec 8) (v : BitVec 16) (s : State) : Result := loadIndirect .word r v s

/-- LDHI (R164). -/
def execLdhi (r : BitVec 8) (v : BitVec 16) (s : State) : Result := loadImmediate .half r v s

/-- LDHD (R165). -/
def execLdhd (r : BitVec 8) (v : BitVec 16) (s : State) : Result := loadDirect .half r v s

/-- LDHR (R166). -/
def execLdhr (r : BitVec 8) (v : BitVec 16) (s : State) : Result := loadIndirect .half r v s

/-- LDBI (R167). -/
def execLdbi (r : BitVec 8) (v : BitVec 16) (s : State) : Result := loadImmediate .byte r v s

/-- LDBD (R168). -/
def execLdbd (r : BitVec 8) (v : BitVec 16) (s : State) : Result := loadDirect .byte r v s

/-- LDBR (R169). -/
def execLdbr (r : BitVec 8) (v : BitVec 16) (s : State) : Result := loadIndirect .byte r v s

/-- STRD (R170). -/
def execStrd (r : BitVec 8) (v : BitVec 16) (s : State) : Result := storeDirect .word r v s

/-- STRR (R171). -/
def execStrr (r : BitVec 8) (v : BitVec 16) (s : State) : Result := storeIndirect .word r v s

/-- STRHD (R172). -/
def execStrhd (r : BitVec 8) (v : BitVec 16) (s : State) : Result := storeDirect .half r v s

/-- STRHR (R173). -/
def execStrhr (r : BitVec 8) (v : BitVec 16) (s : State) : Result := storeIndirect .half r v s

/-- STRBD (R174). -/
def execStrbd (r : BitVec 8) (v : BitVec 16) (s : State) : Result := storeDirect .byte r v s

/-- STRBR (R175). -/
def execStrbr (r : BitVec 8) (v : BitVec 16) (s : State) : Result := storeIndirect .byte r v s

/-- MOV (R176): `x[rd] <- x[rs]`. -/
def execMov (rd rs : BitVec 8) (s : State) : Result :=
  checkRegs [rd.toNat, rs.toNat] s (writeAndAdvance rd.toNat (s.reg rs.toNat) s)

end Sys2Proof.Machine
end

