-- ==== Sys2Proof/Machine/Dispatch.lean ====
section
/-!
DEFINITION. Dispatch: an exhaustive match on the instruction, with no default arm (spec 40_fsm_dispatch.md R132).
-/
namespace Sys2Proof.Machine

/-- What an instruction does in a state: phases 3 to 5 of the cycle, the register check, execute and
commit (R122). It does not look at the status or at STOP, which the cycle tests before it (log 6). -/
def exec (i : Instr) (s : State) : Host.Outcome State Fault Refusal :=
  match i with
  | .igl => Sys2Proof.Machine.execIgl s
  | .ldi r v => Sys2Proof.Machine.execLdi r v s
  | .ldd r v => Sys2Proof.Machine.execLdd r v s
  | .ldr r v => Sys2Proof.Machine.execLdr r v s
  | .ldhi r v => Sys2Proof.Machine.execLdhi r v s
  | .ldhd r v => Sys2Proof.Machine.execLdhd r v s
  | .ldhr r v => Sys2Proof.Machine.execLdhr r v s
  | .ldbi r v => Sys2Proof.Machine.execLdbi r v s
  | .ldbd r v => Sys2Proof.Machine.execLdbd r v s
  | .ldbr r v => Sys2Proof.Machine.execLdbr r v s
  | .strd r v => Sys2Proof.Machine.execStrd r v s
  | .strr r v => Sys2Proof.Machine.execStrr r v s
  | .strhd r v => Sys2Proof.Machine.execStrhd r v s
  | .strhr r v => Sys2Proof.Machine.execStrhr r v s
  | .strbd r v => Sys2Proof.Machine.execStrbd r v s
  | .strbr r v => Sys2Proof.Machine.execStrbr r v s
  | .mov rd rs => Sys2Proof.Machine.execMov rd rs s
  | .addi rd v => Sys2Proof.Machine.execAddi rd v s
  | .addd rd v => Sys2Proof.Machine.execAddd rd v s
  | .addr rd rs1 rs2 => Sys2Proof.Machine.execAddr rd rs1 rs2 s
  | .subi rd v => Sys2Proof.Machine.execSubi rd v s
  | .subd rd v => Sys2Proof.Machine.execSubd rd v s
  | .subr rd rs1 rs2 => Sys2Proof.Machine.execSubr rd rs1 rs2 s
  | .muli rd v => Sys2Proof.Machine.execMuli rd v s
  | .muld rd v => Sys2Proof.Machine.execMuld rd v s
  | .mulr rd rs1 rs2 => Sys2Proof.Machine.execMulr rd rs1 rs2 s
  | .divi rd v => Sys2Proof.Machine.execDivi rd v s
  | .divd rd v => Sys2Proof.Machine.execDivd rd v s
  | .divr rd rs1 rs2 => Sys2Proof.Machine.execDivr rd rs1 rs2 s
  | .eqi r v => Sys2Proof.Machine.execEqi r v s
  | .eqd r v => Sys2Proof.Machine.execEqd r v s
  | .eqr r v => Sys2Proof.Machine.execEqr r v s
  | .neqi r v => Sys2Proof.Machine.execNeqi r v s
  | .neqd r v => Sys2Proof.Machine.execNeqd r v s
  | .neqr r v => Sys2Proof.Machine.execNeqr r v s
  | .gti r v => Sys2Proof.Machine.execGti r v s
  | .gtd r v => Sys2Proof.Machine.execGtd r v s
  | .gtr r v => Sys2Proof.Machine.execGtr r v s
  | .gtei r v => Sys2Proof.Machine.execGtei r v s
  | .gted r v => Sys2Proof.Machine.execGted r v s
  | .gter r v => Sys2Proof.Machine.execGter r v s
  | .lti r v => Sys2Proof.Machine.execLti r v s
  | .ltd r v => Sys2Proof.Machine.execLtd r v s
  | .ltr r v => Sys2Proof.Machine.execLtr r v s
  | .ltei r v => Sys2Proof.Machine.execLtei r v s
  | .lted r v => Sys2Proof.Machine.execLted r v s
  | .lter r v => Sys2Proof.Machine.execLter r v s
  | .jmpi v => Sys2Proof.Machine.execJmpi v s
  | .jmpd v => Sys2Proof.Machine.execJmpd v s
  | .jmpr v => Sys2Proof.Machine.execJmpr v s
  | .jmpei v => Sys2Proof.Machine.execJmpei v s
  | .jmped v => Sys2Proof.Machine.execJmped v s
  | .jmper v => Sys2Proof.Machine.execJmper v s
  | .jmpnei v => Sys2Proof.Machine.execJmpnei v s
  | .jmpned v => Sys2Proof.Machine.execJmpned v s
  | .jmpner v => Sys2Proof.Machine.execJmpner v s
  | .prtsi v => Sys2Proof.Machine.execPrtsi v s
  | .prtsd v => Sys2Proof.Machine.execPrtsd v s
  | .prtsr v => Sys2Proof.Machine.execPrtsr v s
  | .hlt => Sys2Proof.Machine.execHlt s

end Sys2Proof.Machine
end

