-- ==== Sys2Proof/Machine/Cycle.lean ====
section
/-!
DEFINITION. The cycle of the FSM in state Running (spec 40_fsm_dispatch.md R122, R125, R126): sampling STOP,
fetching the instruction's bytes, decoding, executing; and placing a word where the next fetch reads it.
-/
namespace Sys2Proof.Machine

/-- Fetch (R56, R125, R126): the four bytes at pc, as memory stands now; OutOfBounds with pc unchanged if
they are not all in memory. -/
def withFetch (s : State) (k : List Byte → Result) : Result :=
  if s.mem.inBounds s.pc.toNat 4 then k (s.mem.bytesFrom s.pc.toNat 4)
  else .next (s.raise .outOfBounds)

/-- The cycle of R122: the stop check, fetch, decode, then the instruction. A word that is no
instruction raises IllegalInstruction (R272). -/
def cycle (s : State) : Result :=
  if s.stopSampled then .next s.afterSample.cancel
  else withFetch s.afterSample fun bytes =>
    match decode bytes with
    | .instr i => exec i s.afterSample
    | .illegal _ => .next (s.afterSample.raise .illegalInstruction)

/-- Bytes stored at pc if all of them lie in memory. -/
def State.placeAtPc (s : State) (bytes : List Byte) : State :=
  if s.mem.inBounds s.pc.toNat bytes.length then s.setMem (s.mem.writeBytes s.pc.toNat bytes) else s

/-- The state made ready to fetch: status Running with no reason, and STOP false in the next cycle. A
state that is ready already (the reset state is) is left as it is. -/
def State.readyToFetch (s : State) : State :=
  { s with
    status := .running
    reason := .none
    stop := if s.stopSampled then false :: s.stop.tail else s.stop }

end Sys2Proof.Machine
end

