-- ==== Sys2Proof/Machine/Step.lean ====
section
/-!
DEFINITION. One step of the machine: one cycle of the FSM in state Running (spec 40_fsm_dispatch.md R120 to
R123).
-/
namespace Sys2Proof.Machine

/-- One step. A terminal state has none (R121, R123): there the model stops by name (log 4). -/
def step (s : State) : Host.Outcome State Fault Refusal :=
  match s.status with
  | .running => cycle s
  | .halted => .fault (.terminal .halted)
  | .faulted => .fault (.terminal .faulted)
  | .cancelled => .fault (.terminal .cancelled)

/-- `s` with one instruction, its table word `w` of `nbits` bits, stored at pc, so that the very next step
fetches and runs it, wherever its four bytes lie in memory (log 2). -/
def State.withFetchWord (s : State) (nbits w : Nat) : State :=
  s.readyToFetch.placeAtPc (bytesOfWord (tableWord nbits w))

end Sys2Proof.Machine
end

