-- ==== Sys2Proof/Machine/Load.lean ====
section
/-!
DEFINITION. The host's side of the block: construction from a program image, the only reset (spec
70_reset_and_hazards.md R300 to R305); the final state (10_state.md R31); the numeric codes of status and
reason (60_exceptions.md R271).
-/
namespace Sys2Proof.Machine

/-- A program image (R301): the header, the data-section bytes, the code-section words and the entry
address. The block never reads the header (R303). -/
structure Image where
  header : List Byte
  data   : List Byte
  code   : List Word
  entry  : Word
  deriving DecidableEq, Repr

/-- The payload: the data bytes, then the code words as big-endian bytes (R51, R301). -/
def Image.payload (img : Image) : List Byte := img.data ++ img.code.flatMap bytesOfWord

/-- `size` zero bytes (R28). -/
def Memory.zeros (size : Nat) : Memory := { size := size, cells := [] }

/-- `Load(image, MEM_SIZE, NUM_REGS)` (R301), and an oversized payload (R302): no byte is copied and the
instance is constructed Faulted with OutOfBounds. `stop` is the host's stop input for the run (R8). -/
def State.load (img : Image) (memSize numRegs : Nat) (stop : List Bool) : State :=
  if img.payload.length ≤ memSize then
    { regs := List.replicate numRegs 0, pc := img.entry, flag := false
      mem := (Memory.zeros memSize).writeBytes 0 img.payload
      status := .running, reason := .none, out := [], stop := stop }
  else
    { regs := List.replicate numRegs 0, pc := img.entry, flag := false
      mem := Memory.zeros memSize
      status := .faulted, reason := .outOfBounds, out := [], stop := stop }

/-- What the host receives at the end of a run (R31). -/
structure FinalState where
  status : Status
  reason : Reason
  regs   : List Word
  flag   : Bool
  mem    : Memory
  pc     : Word
  out    : List (List Byte)
  deriving DecidableEq, Repr

/-- The final state, once the status is terminal (R31). -/
def State.final (s : State) : Option FinalState :=
  match s.status with
  | .running => none
  | .halted | .faulted | .cancelled =>
    some { status := s.status, reason := s.reason, regs := s.regs, flag := s.flag, mem := s.mem
           pc := s.pc, out := s.out }

/-- The numeric code of a status (R271). -/
def statusCode : Status → Nat
  | .running => 0
  | .halted => 1
  | .faulted => 2
  | .cancelled => 3

/-- The numeric code of a fault reason (R271). -/
def reasonCode : Reason → Nat
  | .none => 0
  | .illegalInstruction => 1
  | .outOfBounds => 2
  | .divisionByZero => 3
  | .unterminatedString => 4

/-- A stop input that a step budget of `n` cycles drives: false for `n` cycles, then true (R273). -/
def budgetStop (n : Nat) : List Bool := List.replicate n false ++ [true]

end Sys2Proof.Machine
end

