-- ==== Sys2Proof/Machine/Assembler.lean ====
section
/-!
DEFINITION. The assembler, a reference beside the machine and no part of it (spec 00_scope.md R5): operand packing
(30_encoding.md R96), directives, sections and labels (R97), errors (R99), over source lines that are already
split into their parts (R95). Reading those parts from text is a lexer's task, which R5 leaves out
(log 12). No instruction or step uses this file: a program that does not assemble never reaches the machine.
-/
namespace Sys2Proof.Machine

/-! ### Source lines (R95) -/

/-- An operand as written (R95). -/
inductive Operand where
  /-- `$n`. -/
  | reg (n : Nat)
  /-- A decimal or hexadecimal literal; there is no minus sign. -/
  | num (n : Nat)
  /-- A quoted character literal: the number that is its ASCII code. -/
  | chr (code : Byte)
  /-- `@name`. -/
  | label (name : String)
  /-- Quoted text, as the codes of its characters. -/
  | text (codes : List Byte)
  deriving DecidableEq, Repr

/-- What a line holds besides its label. -/
inductive Statement where
  /-- `.name args`, the name without its dot. -/
  | directive (name : String) (args : List Operand)
  /-- A mnemonic and its operands. -/
  | instruction (mnemonic : String) (operands : List Operand)
  deriving DecidableEq, Repr

/-- A source line: a label definition, a statement, both or neither. -/
structure SourceLine where
  label     : Option String
  statement : Option Statement
  deriving DecidableEq, Repr

/-! ### Errors (R99) -/

/-- The assembler's errors (R99). `unterminatedText` is a lexer's: nothing here answers it. -/
inductive AsmError where
  | unknownDirective
  | unknownMnemonic
  | undefinedLabel
  | duplicateLabel
  | suffixMismatch
  | unterminatedText
  | operandOutOfRange
  | badAlignment
  | badSyntax
  deriving DecidableEq, Repr

/-- An error with its source position, here the number of its line, from 1. -/
structure AsmFailure where
  error : AsmError
  line  : Nat
  deriving DecidableEq, Repr

/-! ### Operand packing (R96) -/

/-- The operand list of a mnemonic, with the instruction its fields give. -/
inductive Form where
  /-- `$r, n`: A and V16. -/
  | regValue (mk : BitVec 8 → BitVec 16 → Instr)
  /-- `$r, $s`: A and V16. -/
  | regReg (mk : BitVec 8 → BitVec 16 → Instr)
  /-- `$d, $s`: A and B. -/
  | twoRegs (mk : BitVec 8 → BitVec 8 → Instr)
  /-- `$d, $s1, $s2`: A, B and C. -/
  | threeRegs (mk : BitVec 8 → BitVec 8 → BitVec 8 → Instr)
  /-- `n`: V24. -/
  | value (mk : BitVec 24 → Instr)
  /-- `$s`: V24. -/
  | oneReg (mk : BitVec 24 → Instr)
  /-- No operand. -/
  | bare (i : Instr)

/-- The mnemonics of data transfer and their operand lists (R96). -/
def transferForms : List (String × Form) :=
  [("LDI", .regValue .ldi), ("LDD", .regValue .ldd), ("LDR", .regReg .ldr),
   ("LDHI", .regValue .ldhi), ("LDHD", .regValue .ldhd), ("LDHR", .regReg .ldhr),
   ("LDBI", .regValue .ldbi), ("LDBD", .regValue .ldbd), ("LDBR", .regReg .ldbr),
   ("STRD", .regValue .strd), ("STRR", .regReg .strr), ("STRHD", .regValue .strhd), ("STRHR", .regReg .strhr),
   ("STRBD", .regValue .strbd), ("STRBR", .regReg .strbr), ("MOV", .twoRegs .mov)]

/-- The mnemonics of arithmetic. -/
def arithmeticForms : List (String × Form) :=
  [("ADDI", .regValue .addi), ("ADDD", .regValue .addd), ("ADDR", .threeRegs .addr),
   ("SUBI", .regValue .subi), ("SUBD", .regValue .subd), ("SUBR", .threeRegs .subr),
   ("MULI", .regValue .muli), ("MULD", .regValue .muld), ("MULR", .threeRegs .mulr),
   ("DIVI", .regValue .divi), ("DIVD", .regValue .divd), ("DIVR", .threeRegs .divr)]

/-- The mnemonics of comparison. -/
def comparisonForms : List (String × Form) :=
  [("EQI", .regValue .eqi), ("EQD", .regValue .eqd), ("EQR", .regReg .eqr),
   ("NEQI", .regValue .neqi), ("NEQD", .regValue .neqd), ("NEQR", .regReg .neqr),
   ("GTI", .regValue .gti), ("GTD", .regValue .gtd), ("GTR", .regReg .gtr),
   ("GTEI", .regValue .gtei), ("GTED", .regValue .gted), ("GTER", .regReg .gter),
   ("LTI", .regValue .lti), ("LTD", .regValue .ltd), ("LTR", .regReg .ltr),
   ("LTEI", .regValue .ltei), ("LTED", .regValue .lted), ("LTER", .regReg .lter)]

/-- The mnemonics of control transfer and the special ones. -/
def controlForms : List (String × Form) :=
  [("JMPI", .value .jmpi), ("JMPD", .value .jmpd), ("JMPR", .oneReg .jmpr),
   ("JMPEI", .value .jmpei), ("JMPED", .value .jmped), ("JMPER", .oneReg .jmper),
   ("JMPNEI", .value .jmpnei), ("JMPNED", .value .jmpned), ("JMPNER", .oneReg .jmpner),
   ("PRTSI", .value .prtsi), ("PRTSD", .value .prtsd), ("PRTSR", .oneReg .prtsr), ("HLT", .bare .hlt), ("IGL", .bare .igl)]

/-- Every mnemonic, each one machine instruction: there are no pseudo-instructions (R98). -/
def mnemonicForms : List (String × Form) := transferForms ++ arithmeticForms ++ comparisonForms ++ controlForms

/-- A number in a field, or OperandOutOfRange (R96). -/
def fit (width n : Nat) : Except AsmError (BitVec width) :=
  if n < 2 ^ width then .ok (BitVec.ofNat width n) else .error .operandOutOfRange

/-- The address a label has, or UndefinedLabel (R97). -/
def findLabel (labels : List (String × Nat)) (name : String) : Except AsmError Nat :=
  match labels.lookup name with
  | some a => .ok a
  | none => .error .undefinedLabel

/-- The number a character literal stands for: its ASCII code, 1 to 127 (R95, R97). Another code is a SyntaxError
(log 12). -/
def charCode (c : Byte) : Except AsmError Nat :=
  if 1 ≤ c.toNat ∧ c.toNat ≤ 127 then .ok c.toNat else .error .badSyntax

/-- The value operand of an I or D form: a number or a label reference; a register does not match the suffix
(R96). -/
def valueOperand (labels : List (String × Nat)) (width : Nat) : Operand → Except AsmError (BitVec width)
  | .num n => fit width n
  | .chr c => do fit width (← charCode c)
  | .label name => do fit width (← findLabel labels name)
  | .reg _ => .error .suffixMismatch
  | .text _ => .error .badSyntax

/-- A register operand; a number or a label does not match (R96). -/
def registerOperand (width : Nat) : Operand → Except AsmError (BitVec width)
  | .reg n => fit width n
  | .num _ => .error .suffixMismatch
  | .chr _ => .error .suffixMismatch
  | .label _ => .error .suffixMismatch
  | .text _ => .error .badSyntax

/-- The instruction of an operand list, checked against the suffix; a wrong number of operands is a
SyntaxError (R96, R99; log 12). -/
def packOperands (labels : List (String × Nat)) (form : Form) (operands : List Operand) : Except AsmError Instr :=
  match form, operands with
  | .regValue mk, [r, v] => do return mk (← registerOperand 8 r) (← valueOperand labels 16 v)
  | .regReg mk, [r, s] => do return mk (← registerOperand 8 r) (← registerOperand 16 s)
  | .twoRegs mk, [d, s] => do return mk (← registerOperand 8 d) (← registerOperand 8 s)
  | .threeRegs mk, [d, s1, s2] => do
    return mk (← registerOperand 8 d) (← registerOperand 8 s1) (← registerOperand 8 s2)
  | .value mk, [v] => do return mk (← valueOperand labels 24 v)
  | .oneReg mk, [s] => do return mk (← registerOperand 24 s)
  | .bare i, [] => .ok i
  | _, _ => .error .badSyntax

/-- The instruction of a mnemonic and its operands (R96). -/
def assembleInstr (labels : List (String × Nat)) (mnemonic : String) (operands : List Operand) : Except AsmError Instr :=
  match mnemonicForms.lookup mnemonic with
  | some form => packOperands labels form operands
  | none => .error .unknownMnemonic

/-! ### Directives (R97) -/

/-- A section: lines before the first switch belong to `data` (R97). -/
inductive Section where
  | data
  | code
  deriving DecidableEq, Repr

/-- A numeric or character literal; directive arguments are never labels (R97). -/
def literal : Operand → Except AsmError Nat
  | .num n => .ok n
  | .chr c => charCode c
  | .reg _ => .error .badSyntax
  | .label _ => .error .badSyntax
  | .text _ => .error .badSyntax

/-- A character a string can hold: its code is 1 to 127, and it is no quote (R97). -/
def isTextChar (c : Byte) : Bool := decide (1 ≤ c.toNat ∧ c.toNat ≤ 127 ∧ c.toNat ≠ 0x22)

/-- The bytes of a string literal: its characters as written, one byte each, no escapes (R97). Another character is
a SyntaxError (log 12). -/
def textBytes (codes : List Byte) : Except AsmError (List Byte) :=
  if codes.all isTextChar then .ok codes else .error .badSyntax

/-- One literal argument as big-endian bytes of a width, or OperandOutOfRange (R97). -/
def literalBytes (wd : Width) (arg : Operand) : Except AsmError (List Byte) := do
  return storeBytes wd ((← fit (8 * widthBytes wd) (← literal arg)).zeroExtend 32)

/-- The bytes of a directive's literal arguments, of which there is at least one (R97; log 12). -/
def literalsBytes (wd : Width) (args : List Operand) : Except AsmError (List Byte) :=
  if args.isEmpty then .error .badSyntax else do return (← args.mapM (literalBytes wd)).flatten

/-- The zero bytes from a cursor up to the next multiple of `2^n` (R97). -/
def alignPadding (cursor n : Nat) : List Byte := List.replicate ((2 ^ n - cursor % 2 ^ n) % 2 ^ n) 0

/-- What a byte-emitting directive emits at a cursor of the data section (R97). -/
def directiveBytes (cursor : Nat) (name : String) (args : List Operand) : Except AsmError (List Byte) :=
  match name, args with
  | "align", [n] => do
    let k ← literal n
    if k ≤ 31 then return alignPadding cursor k else throw .badAlignment
  | "ascii", [.text s] => textBytes s
  | "asciiz", [.text s] => do return (← textBytes s) ++ [0]
  | "byte", vs => literalsBytes .byte vs
  | "half", vs => literalsBytes .half vs
  | "word", vs => literalsBytes .word vs
  | "space", [n] => do return List.replicate (← literal n) 0
  | "align", _ | "ascii", _ | "asciiz", _ | "space", _ => .error .badSyntax
  | _, _ => .error .unknownDirective

/-- Whether a name is a byte-emitting directive's. -/
def emitsBytes (name : String) : Bool := ["align", "ascii", "asciiz", "byte", "half", "word", "space"].contains name

/-! ### Two passes (R97) -/

/-- The assembler's state in pass one: the active section, the data section so far (its length is the data
cursor), the instruction lines so far (four times their number is the code cursor) and the labels. -/
structure PassOne where
  active : Section
  data   : List Byte
  code   : List (Nat × String × List Operand)
  labels : List (String × Section × Nat)
  deriving DecidableEq, Repr

/-- The active section's cursor. -/
def PassOne.cursor (p : PassOne) : Nat :=
  match p.active with
  | .data => p.data.length
  | .code => 4 * p.code.length

/-- A label definition: the active section's current cursor, or DuplicateLabel (R97). DESIGN CHOICE: the label is
defined before its line's statement takes effect, so one that leads a `.data` or `.code` line belongs to the
section before the switch (log 13). -/
def PassOne.define (p : PassOne) : Option String → Except AsmError PassOne
  | none => .ok p
  | some name =>
    if (p.labels.lookup name).isSome then .error .duplicateLabel
    else .ok { p with labels := p.labels ++ [(name, p.active, p.cursor)] }

/-- One statement in pass one: a switch of section, bytes in the data section, or an instruction line in the
code section; a statement in the section that does not take it is a SyntaxError (R97). -/
def PassOne.add (p : PassOne) (line : Nat) : Option Statement → Except AsmError PassOne
  | none => .ok p
  | some (.directive "data" []) => .ok { p with active := .data }
  | some (.directive "code" []) => .ok { p with active := .code }
  | some (.directive "data" _) => .error .badSyntax
  | some (.directive "code" _) => .error .badSyntax
  | some (.directive name args) =>
    match p.active with
    | .data => do return { p with data := p.data ++ (← directiveBytes p.cursor name args) }
    | .code => .error (if emitsBytes name then .badSyntax else .unknownDirective)
  | some (.instruction mnemonic operands) =>
    match p.active with
    | .data => .error .badSyntax
    | .code => .ok { p with code := p.code ++ [(line, mnemonic, operands)] }

/-- The source position put on an error. -/
def atLine {α : Type} (line : Nat) : Except AsmError α → Except AsmFailure α
  | .ok a => .ok a
  | .error e => .error ⟨e, line⟩

/-- Pass one over the lines from number `line` on: each line's label, then its statement (log 13). -/
def passOne (line : Nat) (p : PassOne) : List SourceLine → Except AsmFailure PassOne
  | [] => .ok p
  | l :: ls => do passOne (line + 1) (← atLine line (do (← p.define l.label).add line l.statement)) ls

/-- The labels' addresses: a data label's is its cursor, a code label's the data length plus its cursor
(R97; 90_conflicts.md C4). -/
def PassOne.addresses (p : PassOne) : List (String × Nat) :=
  p.labels.map fun l =>
    match l with
    | (name, .data, c) => (name, c)
    | (name, .code, c) => (name, p.data.length + c)

/-- Pass two: the words of the instruction lines. -/
def passTwo (labels : List (String × Nat)) : List (Nat × String × List Operand) → Except AsmFailure (List Word)
  | [] => .ok []
  | (line, mnemonic, operands) :: ls => do
    let i ← atLine line (assembleInstr labels mnemonic operands)
    return encode i :: (← passTwo labels ls)

/-- The image of a source: data bytes, code words, and as entry the first code address, which is the data length
(R97, R301, R303). The image's header, whose bytes the spec does not give, is left empty: the machine never reads it
(log 11). -/
def assemble (source : List SourceLine) : Except AsmFailure Image := do
  let p ← passOne 1 ⟨.data, [], [], []⟩ source
  let code ← passTwo p.addresses p.code
  return { header := [], data := p.data, code := code, entry := BitVec.ofNat 32 p.data.length }

end Sys2Proof.Machine
end

