-- ==== Sys2Proof/WellFormed.lean ====
section
/-!
DEFINITION. Well-formed instructions. The operand fields have their encodings' widths by type, so
every instruction can be encoded; what remains to check is R131: every register index an
instruction names lies below NUM_REGS. `Instr.regIndices` is the table RegIndices of R131, written
from the spec on its own: the machine's meanings do not use it, so that statements can hold
the two against each other.
-/
namespace Sys2Proof

/-- The register indices an instruction names (R131, RegIndices; R89 for the value fields). -/
def Instr.regIndices : Instr → List Nat
  -- Load(_, I, r, _), Load(_, D, r, _), Store(_, D, r, _)
  | .ldi r _ | .ldd r _ | .ldhi r _ | .ldhd r _ | .ldbi r _ | .ldbd r _ => [r.toNat]
  | .strd r _ | .strhd r _ | .strbd r _ => [r.toNat]
  -- Load(_, R, r, v), Store(_, R, r, v)
  | .ldr r v | .ldhr r v | .ldbr r v => [r.toNat, v.toNat]
  | .strr r v | .strhr r v | .strbr r v => [r.toNat, v.toNat]
  -- Mov(rd, rs)
  | .mov rd rs => [rd.toNat, rs.toNat]
  -- AluRV(_, _, rd, _)
  | .addi rd _ | .addd rd _ | .subi rd _ | .subd rd _ => [rd.toNat]
  | .muli rd _ | .muld rd _ | .divi rd _ | .divd rd _ => [rd.toNat]
  -- AluRRR(_, rd, rs1, rs2)
  | .addr rd rs1 rs2 | .subr rd rs1 rs2 => [rd.toNat, rs1.toNat, rs2.toNat]
  | .mulr rd rs1 rs2 | .divr rd rs1 rs2 => [rd.toNat, rs1.toNat, rs2.toNat]
  -- Cmp(_, I, r, _), Cmp(_, D, r, _)
  | .eqi r _ | .neqi r _ | .gti r _ | .gtei r _ | .lti r _ | .ltei r _ => [r.toNat]
  | .eqd r _ | .neqd r _ | .gtd r _ | .gted r _ | .ltd r _ | .lted r _ => [r.toNat]
  -- Cmp(_, R, r, v)
  | .eqr r v | .neqr r v | .gtr r v | .gter r v | .ltr r v | .lter r v => [r.toNat, v.toNat]
  -- Jump(_, I, _), Jump(_, D, _), Prts(I, _), Prts(D, _), Halt
  | .jmpi _ | .jmpd _ | .jmpei _ | .jmped _ | .jmpnei _ | .jmpned _ => []
  | .prtsi _ | .prtsd _ => []
  -- Jump(_, R, v), Prts(R, v)
  | .jmpr v | .jmper v | .jmpner v | .prtsr v => [v.toNat]
  | .hlt => []
  -- the word is illegal whatever its bits are: no index is named (R93)
  | .igl => []

/-- Every register index the instruction names is below NUM_REGS (R131). -/
abbrev Instr.WellFormed (numRegs : Nat) (i : Instr) : Prop := ∀ k ∈ i.regIndices, k < numRegs

end Sys2Proof
end

