-- ==== Sys2Proof/Safety.lean ====
section
/-!
DEFINITION. The terms claims about the machine are stated in: the invariant, safe states, what an
instruction may change and what it leaves alone, and the spec's own way of naming values (a number read
big-endian from memory, an opcode's number), written here without the machine's operations.
-/
namespace Sys2Proof.Machine

/-- The invariant every step keeps: the parameters lie in the ranges of R8, memory has its canonical form,
and the reason is None exactly when the status is not Faulted (R26). -/
abbrev State.Inv (s : State) : Prop :=
  Config.NumRegsOK s.numRegs ∧ Config.MemSizeOK s.mem.size ∧ s.mem.wf = true ∧
    (s.reason = .none ↔ s.status ≠ .faulted)

/-- A safe state: no fault has been taken (R270). -/
abbrev State.Safe (s : State) : Prop := s.status ≠ .faulted

/-- `n` steps, stopping where a step has no next state: the host's run of this machine. -/
def runSteps : Nat → State → Result
  | 0, s => .next s
  | n + 1, s =>
    match step s with
    | .next t => runSteps n t
    | .fault r => .fault r
    | .refused r => .refused r

/-! ### Values as the spec names them -/

/-- The `n` bytes at address `a` as a big-endian number: `mem[a] ‖ mem[a+1] ‖ …` (R53). -/
def memNat (m : Memory) (a : Nat) : Nat → Nat
  | 0 => 0
  | n + 1 => (m.byte a).toNat * 256 ^ n + memNat m (a + 1) n

/-- The opcode number of an instruction (R90): comparisons are 12 to 17, jumps 18 to 20, PRTS 21, stores 4
to 6, HLT 22. -/
def instrOpcode (i : Instr) : Nat := (opField (encode i)).toNat

/-- The pairs of opcode and mode that name no instruction, and IGL: cases (a) to (e) of R91. -/
abbrev IllegalPair (op md : Nat) : Prop :=
  op = 0 ∨ (23 ≤ op ∧ op ≤ 63) ∨ md = 3 ∨ (md = 0 ∧ (op = 4 ∨ op = 5 ∨ op = 6)) ∨ (md ≠ 0 ∧ (op = 7 ∨ op = 22))

/-! ### What an instruction answers -/

/-- It answers a next state, and that state is as `P` says. -/
def Completes (o : Result) (P : State → Prop) : Prop := ∃ t, o = .next t ∧ P t

/-- It faults: the next state is the old one with the status Faulted and the reason `r`, and nothing else
changed (R276). -/
def Faults (o : Result) (s : State) (r : Reason) : Prop := o = .next { s with status := .faulted, reason := r }

/-- Every register is as it was. -/
def RegsKept (s t : State) : Prop := t.numRegs = s.numRegs ∧ ∀ k, t.reg k = s.reg k

/-- Every byte of memory is as it was, and so is its size. -/
def MemKept (s t : State) : Prop := t.mem.size = s.mem.size ∧ ∀ b, t.mem.byte b = s.mem.byte b

/-- The status, the reason, the output and the stop input are as they were. -/
def ControlKept (s t : State) : Prop :=
  t.status = s.status ∧ t.reason = s.reason ∧ t.out = s.out ∧ t.stop = s.stop

/-- Register `r` holds the number `v`, pc has advanced by 4, and everything else is as it was. -/
structure WritesReg (r v : Nat) (s t : State) : Prop where
  value   : (t.reg r).toNat = v
  others  : ∀ k, k ≠ r → t.reg k = s.reg k
  count   : t.numRegs = s.numRegs
  pc      : t.pc = s.pc + 4
  flag    : t.flag = s.flag
  mem     : MemKept s t
  control : ControlKept s t

/-- The flag holds `b`, pc has advanced by 4, and everything else is as it was. -/
structure WritesFlag (b : Bool) (s t : State) : Prop where
  value   : t.flag = b
  regs    : RegsKept s t
  pc      : t.pc = s.pc + 4
  mem     : MemKept s t
  control : ControlKept s t

/-- The `n` bytes at address `a` hold the low `8n` bits of the number `v`, big-endian (R54), every byte
outside them is as it was, pc has advanced by 4, and everything else is as it was. -/
structure StoresBytes (a n v : Nat) (s t : State) : Prop where
  stored  : ∀ k, k < n → (t.mem.byte (a + k)).toNat = v / 256 ^ (n - 1 - k) % 256
  outside : ∀ b, (b < a ∨ a + n ≤ b) → t.mem.byte b = s.mem.byte b
  size    : t.mem.size = s.mem.size
  regs    : RegsKept s t
  pc      : t.pc = s.pc + 4
  flag    : t.flag = s.flag
  control : ControlKept s t

/-- pc holds the target, and everything else is as it was. -/
structure SetsPc (target : Word) (s t : State) : Prop where
  pc      : t.pc = target
  regs    : RegsKept s t
  flag    : t.flag = s.flag
  mem     : MemKept s t
  control : ControlKept s t

/-- One record is appended to the output, pc has advanced by 4, and everything else is as it was. -/
structure Emits (record : List Byte) (s t : State) : Prop where
  out    : t.out = s.out ++ [record]
  regs   : RegsKept s t
  pc     : t.pc = s.pc + 4
  flag   : t.flag = s.flag
  mem    : MemKept s t
  status : t.status = s.status
  reason : t.reason = s.reason
  stop   : t.stop = s.stop

/-- In state Running, with STOP false, a pc whose four bytes do not all lie in memory faults OutOfBounds at
the fetch and keeps its value (R126). -/
def NextFetchFaults (t : State) : Prop :=
  t.status = .running → t.stopSampled = false → t.mem.size < t.pc.toNat + 4 →
    Faults (step t) t.afterSample .outOfBounds

/-- In state Running, with STOP false and a pc whose four bytes lie in memory, the next step runs the
instruction whose word those bytes hold as memory stands now (R66, R125). -/
def NextFetchReads (t : State) : Prop :=
  t.status = .running → t.stopSampled = false → t.pc.toNat + 4 ≤ t.mem.size →
    ∀ i, memNat t.mem t.pc.toNat 4 = (encode i).toNat → step t = exec i t.afterSample

/-- The destination register of an instruction: of the loads, MOV and arithmetic (R160, R176, R190); no
other instruction writes a register. -/
def destReg : Instr → Option Nat
  | .ldi r _ | .ldd r _ | .ldr r _ | .ldhi r _ | .ldhd r _ | .ldhr r _ => some r.toNat
  | .ldbi r _ | .ldbd r _ | .ldbr r _ => some r.toNat
  | .mov rd _ => some rd.toNat
  | .addi rd _ | .addd rd _ | .subi rd _ | .subd rd _ => some rd.toNat
  | .muli rd _ | .muld rd _ | .divi rd _ | .divd rd _ => some rd.toNat
  | .addr rd _ _ | .subr rd _ _ | .mulr rd _ _ | .divr rd _ _ => some rd.toNat
  | .strd _ _ | .strr _ _ | .strhd _ _ | .strhr _ _ | .strbd _ _ | .strbr _ _ => none
  | .eqi _ _ | .eqd _ _ | .eqr _ _ | .neqi _ _ | .neqd _ _ | .neqr _ _ => none
  | .gti _ _ | .gtd _ _ | .gtr _ _ | .gtei _ _ | .gted _ _ | .gter _ _ => none
  | .lti _ _ | .ltd _ _ | .ltr _ _ | .ltei _ _ | .lted _ _ | .lter _ _ => none
  | .jmpi _ | .jmpd _ | .jmpr _ | .jmpei _ | .jmped _ | .jmper _ | .jmpnei _ | .jmpned _ | .jmpner _ => none
  | .prtsi _ | .prtsd _ | .prtsr _ | .hlt | .igl => none

/-- The address an instruction stores to and the number of bytes it stores there: of the stores, by the operand
forms their meanings use (R134, R160); no other instruction writes memory (R55). -/
def storeTarget (i : Instr) (s : State) : Option (Nat × Nat) :=
  match i with
  | .strd _ v => some ((eaDirect v).toNat, widthBytes .word)
  | .strr _ v => some ((eaRegister v s).toNat, widthBytes .word)
  | .strhd _ v => some ((eaDirect v).toNat, widthBytes .half)
  | .strhr _ v => some ((eaRegister v s).toNat, widthBytes .half)
  | .strbd _ v => some ((eaDirect v).toNat, widthBytes .byte)
  | .strbr _ v => some ((eaRegister v s).toNat, widthBytes .byte)
  | .ldi _ _ | .ldd _ _ | .ldr _ _ | .ldhi _ _ | .ldhd _ _ | .ldhr _ _ | .ldbi _ _ | .ldbd _ _ | .ldbr _ _ => none
  | .mov _ _ | .addi _ _ | .addd _ _ | .subi _ _ | .subd _ _ | .muli _ _ | .muld _ _ | .divi _ _ | .divd _ _ => none
  | .addr _ _ _ | .subr _ _ _ | .mulr _ _ _ | .divr _ _ _ => none
  | .eqi _ _ | .eqd _ _ | .eqr _ _ | .neqi _ _ | .neqd _ _ | .neqr _ _ => none
  | .gti _ _ | .gtd _ _ | .gtr _ _ | .gtei _ _ | .gted _ _ | .gter _ _ => none
  | .lti _ _ | .ltd _ _ | .ltr _ _ | .ltei _ _ | .lted _ _ | .lter _ _ => none
  | .jmpi _ | .jmpd _ | .jmpr _ | .jmpei _ | .jmped _ | .jmper _ | .jmpnei _ | .jmpned _ | .jmpner _ => none
  | .prtsi _ | .prtsd _ | .prtsr _ | .hlt | .igl => none

/-- An instruction's writes: no register but its destination, no byte of memory but those at the address it
stores to, the flag only in a comparison (opcodes 12 to 17), the output only in PRTS (opcode 21), which appends one
record (R276). -/
structure WritesOnly (i : Instr) (s t : State) : Prop where
  regs  : ∀ k, destReg i ≠ some k → t.reg k = s.reg k
  count : t.numRegs = s.numRegs
  mem   : ∀ b, (∀ a n, storeTarget i s = some (a, n) → b < a ∨ a + n ≤ b) → t.mem.byte b = s.mem.byte b
  size  : t.mem.size = s.mem.size
  flag  : ¬ (12 ≤ instrOpcode i ∧ instrOpcode i ≤ 17) → t.flag = s.flag
  out   : t.out = s.out ∨ (instrOpcode i = 21 ∧ ∃ record, t.out = s.out ++ [record])
  stop  : t.stop = s.stop

end Sys2Proof.Machine
end

