-- ==== Sys2Proof/Certificates/Slice0/Obligations.lean ====
section
/-!
DEFINITION. The statements for the provers. Each says in its docstring which rule of the spec it formalises, or
that it is derived and from which sections. Statements about instructions are about EVERY state: every
NUM_REGS, every MEM_SIZE, reachable or not.
-/
open Sys2Proof Sys2Proof.Machine

/-- Decode and encode agree, in both directions (30_encoding.md section 6, 40_fsm_dispatch.md section 4; R129 is
marked derived there): decoding the bytes of any instruction gives it back, and encoding what a legal word
decodes to gives the word with its unused bits (R93: 7:0 of MOV, 23:0 of HLT) set to zero. -/
def Obligations.EncodeDecodeRoundTrip : Prop :=
  (∀ i : Instr, decode (encodeBytes i) = .instr i) ∧
  (∀ (w : Word) (i : Instr), decodeWord w = .instr i → i ≠ .igl →
    encode i =
      match i with
      | .mov _ _ => w &&& 0xFFFFFF00#32
      | .hlt => w &&& 0xFF000000#32
      | _ => w)

/-- R91: a word is illegal iff its opcode and mode are one of the cases (a) to (e). Being illegal is decoding to
`igl` (case a) or to no instruction (cases b to e); every other pair names an instruction, there are 59 of them,
and the word 0 is illegal by (a). -/
def Obligations.IllegalWordsExactly : Prop :=
  (∀ w : Word, (decodeWord w = .instr .igl ∨ ∃ why, decodeWord w = .illegal why) ↔
    IllegalPair (w.toNat / 2 ^ 26) (w.toNat / 2 ^ 24 % 4)) ∧
  (∀ w : Word, decodeWord w = .instr .igl ↔ w.toNat / 2 ^ 26 = 0) ∧
  (∀ w : Word, ¬ IllegalPair (w.toNat / 2 ^ 26) (w.toNat / 2 ^ 24 % 4) →
    ∃ i, decodeWord w = .instr i ∧ i ≠ .igl ∧ instrOpcode i = w.toNat / 2 ^ 26) ∧
  ((List.range 256).filter fun b => decide (¬ IllegalPair (b / 4) (b % 4))).length = 59 ∧
  decodeWord 0 = .instr .igl

/-- The decoder reads the worked encodings of 30_encoding.md section 8 (each computed there from the encoding
formula). -/
def Obligations.DecodeSampleWords : Prop :=
  decodeTableWord 32 0x2C000000 = some (.divi 0 0) ∧
  decodeTableWord 32 0x22010203 = some (.addr 1 2 3) ∧
  decodeTableWord 32 0x0D000000 = some (.ldbd 0 0) ∧
  decodeTableWord 32 0x19000000 = some (.strbd 0 0) ∧
  decodeTableWord 32 0x3000007A = some (.eqi 0 0x7A) ∧
  decodeTableWord 32 0x4A000005 = some (.jmpr 5) ∧
  decodeTableWord 32 0x4C000012 = some (.jmpei 0x12) ∧
  decodeTableWord 32 0x54000000 = some (.prtsi 0) ∧
  decodeTableWord 32 0x1C070000 = some (.mov 7 0) ∧
  decodeTableWord 32 0x58000000 = some .hlt ∧
  decodeTableWord 32 0x00000000 = some .igl

/-- A step runs the decoded instruction (40_fsm_dispatch.md section 2, the cycle): in state Running, STOP sampled
false and the four bytes at pc in memory, a step is `exec` of the instruction they decode to, in the state whose
one difference is that the sample of STOP is used up; bytes that decode to no instruction raise
IllegalInstruction. How STOP is held in the state is the model's choice (log 3). -/
def Obligations.StepRunsDecodedInstruction : Prop :=
  ∀ (s : State), s.status = .running → s.stopSampled = false → s.pc.toNat + 4 ≤ s.mem.size →
    (∀ i, decode [s.mem.byte s.pc.toNat, s.mem.byte (s.pc.toNat + 1), s.mem.byte (s.pc.toNat + 2),
        s.mem.byte (s.pc.toNat + 3)] = .instr i → step s = exec i s.afterSample) ∧
    (∀ why, decode [s.mem.byte s.pc.toNat, s.mem.byte (s.pc.toNat + 1), s.mem.byte (s.pc.toNat + 2),
        s.mem.byte (s.pc.toNat + 3)] = .illegal why → Faults (step s) s.afterSample .illegalInstruction)

/-- Host stop (60_exceptions.md section 2): at the start of a cycle in state Running, if STOP is sampled true, the
status becomes Cancelled and no other component changes, whatever stands at pc. That the sample is used up is
the model's way of holding the input (log 3). A step budget of n cycles samples false n times, then true. -/
def Obligations.StopSampledBeforeFetch : Prop :=
  (∀ s : State, s.status = .running → s.stopSampled = true →
    step s = .next { s with status := .cancelled, stop := s.stop.tail }) ∧
  (∀ n k : Nat, (budgetStop n).getD k false = decide (k = n))

/-- R126: a fetch out of bounds faults OutOfBounds with pc still holding the value; and a register-indirect jump
beyond memory completes, and the next cycle's fetch faults. -/
def Obligations.FetchOutOfBoundsFaults : Prop :=
  (∀ s : State, s.status = .running → s.stopSampled = false → s.mem.size < s.pc.toNat + 4 →
    Faults (step s) s.afterSample .outOfBounds) ∧
  (∀ (s : State) (v : BitVec 24), s.status = .running → s.stopSampled = false → v.toNat < s.numRegs →
    s.mem.size < (s.reg v.toNat).toNat + 4 →
    Completes (exec (.jmpr v) s) fun t =>
      t.pc = s.reg v.toNat ∧ t.status = .running ∧ Faults (step t) t.afterSample .outOfBounds)

/-- R272: IllegalInstruction is raised at decode, by the word alone: from a running state whose reason is not
already IllegalInstruction, a step sets that reason iff STOP is sampled false, the fetch is in bounds, and the
opcode and mode of the big-endian word at pc are one of the listed pairs. -/
def Obligations.IllegalInstructionByWordAlone : Prop :=
  ∀ s : State, s.status = .running → s.reason ≠ .illegalInstruction →
    ((∃ t, step s = .next t ∧ t.reason = .illegalInstruction) ↔
      (s.stopSampled = false ∧ s.pc.toNat + 4 ≤ s.mem.size ∧
        IllegalPair (memNat s.mem s.pc.toNat 4 / 2 ^ 26) (memNat s.mem s.pc.toNat 4 / 2 ^ 24 % 4)))

/-- R131: if any register index an instruction names (the table RegIndices) is NUM_REGS or more, the instruction
faults OutOfBounds and no register, memory byte, flag or output changes, whether or not a conditional jump would
be taken, and whatever its memory operand is. -/
def Obligations.RegisterCheckPrecedesExecution : Prop :=
  ∀ (i : Instr) (s : State), ¬ i.WellFormed s.numRegs → Faults (exec i s) s .outOfBounds

/-- 60_exceptions.md section 1 (precise faults) and 20_memory.md section 3 (which instructions access memory, and
where): a cycle that faults changes exactly the status and the reason, and, in the model, uses up the sample of
STOP (log 3); an instruction writes no register but its destination, no byte but those at the address it stores
to (computed by the operand form its meaning uses), the flag only in a comparison and the output only in PRTS;
and at most one of these is an instruction's to write. -/
def Obligations.FaultsArePrecise : Prop :=
  (∀ s t : State, s.status = .running → step s = .next t → t.status = .faulted →
    t.reason ≠ .none ∧ t = { s with status := .faulted, reason := t.reason, stop := s.stop.tail }) ∧
  (∀ (i : Instr) (s t : State), exec i s = .next t → WritesOnly i s t) ∧
  (∀ (i : Instr) (s : State),
    ((destReg i).isSome = true ↔
      (1 ≤ instrOpcode i ∧ instrOpcode i ≤ 3) ∨ (7 ≤ instrOpcode i ∧ instrOpcode i ≤ 11)) ∧
    ((storeTarget i s).isSome = true ↔ 4 ≤ instrOpcode i ∧ instrOpcode i ≤ 6))

/-- 10_state.md section 4: only the six comparisons (opcodes 12 to 17) write the flag, and each discards its
previous value: two states that differ in the flag alone have, after a comparison that does not fault, the same
next state. -/
def Obligations.OnlyComparisonsWriteFlag : Prop :=
  (∀ (i : Instr) (s t : State), exec i s = .next t → ¬ (12 ≤ instrOpcode i ∧ instrOpcode i ≤ 17) → t.flag = s.flag) ∧
  (∀ (i : Instr) (s t : State) (b : Bool), 12 ≤ instrOpcode i → instrOpcode i ≤ 17 → s.status = .running →
    exec i s = .next t → t.status = .running → exec i { s with flag := b } = .next t)

/-- 10_state.md section 4: only JMPE (opcode 19) and JMPNE (20) read the flag: what any other instruction does to
every other component is the same whatever the flag holds. -/
def Obligations.FlagReadOnlyByConditionalJumps : Prop :=
  ∀ (i : Instr) (s t : State) (b : Bool), instrOpcode i ≠ 19 → instrOpcode i ≠ 20 → exec i s = .next t →
    ∃ u, exec i { s with flag := b } = .next u ∧ { u with flag := t.flag } = t

/-- 10_state.md section 5: only PRTS (opcode 21) emits, one record at a time, at the end of the output. -/
def Obligations.OnlyPrtsEmits : Prop :=
  ∀ (i : Instr) (s t : State), exec i s = .next t →
    t.out = s.out ∨ (instrOpcode i = 21 ∧ ∃ record : List Byte, (∀ x ∈ record, x ≠ 0) ∧ t.out = s.out ++ [record])

/-- 20_memory.md section 3 (access widths: no other instruction writes memory): an instruction whose opcode is not
4, 5 or 6 leaves every byte as it was; none changes MEM_SIZE or NUM_REGS. -/
def Obligations.OnlyStoresChangeMemory : Prop :=
  ∀ (i : Instr) (s t : State), exec i s = .next t →
    (¬ (4 ≤ instrOpcode i ∧ instrOpcode i ≤ 6) → t.mem = s.mem) ∧ t.mem.size = s.mem.size ∧ t.numRegs = s.numRegs

/-- 10_state.md section 3 and 40_fsm_dispatch.md section 8 (commit): from a running state, a fault or HLT leaves pc;
a jump that is taken does not add 4 to pc but sets its target (here: pc does not depend on the old pc); a jump
not taken and every other instruction advance pc by 4. -/
def Obligations.PcAfterInstruction : Prop :=
  ∀ (i : Instr) (s t : State), s.status = .running → exec i s = .next t →
    (t.status = .faulted → t.pc = s.pc) ∧
    (i = .hlt → t.pc = s.pc ∧ t.status = .halted) ∧
    (t.status = .running → ¬ (18 ≤ instrOpcode i ∧ instrOpcode i ≤ 20) → t.pc = s.pc + 4) ∧
    (t.status = .running → instrOpcode i = 19 → s.flag = false → t.pc = s.pc + 4) ∧
    (t.status = .running → instrOpcode i = 20 → s.flag = true → t.pc = s.pc + 4) ∧
    (t.status = .running → (instrOpcode i = 18 ∨ (instrOpcode i = 19 ∧ s.flag = true) ∨ (instrOpcode i = 20 ∧ s.flag = false)) →
      ∀ p : Word, exec i { s with pc := p } = .next t)

/-- 40_fsm_dispatch.md section 9 (register-file access per instruction): a register an instruction does not name is
neither read nor written: changing it before the instruction is the same as changing it after. -/
def Obligations.UnnamedRegistersDoNotMatter : Prop :=
  ∀ (i : Instr) (s t : State) (k : Nat) (v : Word), k ∉ i.regIndices → exec i s = .next t →
    exec i (s.setReg k v) = .next (t.setReg k v)

/-- Every step keeps the invariant, from every state that meets it: the parameters stay in range (00_scope.md
section 4), memory keeps its canonical form, the reason is None exactly when the status is not Faulted
(10_state.md section 5); and a step changes neither NUM_REGS nor MEM_SIZE. The canonical form of memory is the
model's. -/
def Obligations.StepKeepsInvariant : Prop :=
  ∀ s t : State, s.Inv → step s = .next t → t.Inv ∧ t.numRegs = s.numRegs ∧ t.mem.size = s.mem.size

/-- The reset state meets the invariant and is what 10_state.md section 8 says of an empty image, at the reference
parameters, which with the empty image are the model's choice (logs 1 and 2): registers 0, flag false, memory
zero, Running, no reason, no output. -/
def Obligations.ResetMeetsInvariant : Prop :=
  State.reset.Inv ∧ (∀ k, State.reset.reg k = 0) ∧ (∀ b, State.reset.mem.byte b = 0) ∧ State.reset.flag = false ∧
    State.reset.status = .running ∧ State.reset.reason = .none ∧ State.reset.out = [] ∧ State.reset.pc = 0

/-- R301 and R302: what construction from an image leaves in every component, when the payload fits and when it does
not; the header plays no part. -/
def Obligations.LoadBuildsResetState : Prop :=
  ∀ (img : Image) (ms nr : Nat) (stop : List Bool),
    ((∀ k, (State.load img ms nr stop).reg k = 0) ∧ (State.load img ms nr stop).numRegs = nr ∧
      (State.load img ms nr stop).flag = false ∧ (State.load img ms nr stop).out = [] ∧
      (State.load img ms nr stop).pc = img.entry ∧ (State.load img ms nr stop).mem.size = ms) ∧
    (img.data.length + 4 * img.code.length ≤ ms →
      (State.load img ms nr stop).status = .running ∧ (State.load img ms nr stop).reason = .none ∧
      (∀ a, a < img.data.length → (State.load img ms nr stop).mem.byte a = img.data.getD a 0) ∧
      (∀ j, j < img.code.length →
        memNat (State.load img ms nr stop).mem (img.data.length + 4 * j) 4 = (img.code.getD j 0).toNat) ∧
      (∀ a, img.data.length + 4 * img.code.length ≤ a → (State.load img ms nr stop).mem.byte a = 0)) ∧
    (ms < img.data.length + 4 * img.code.length →
      (State.load img ms nr stop).status = .faulted ∧ (State.load img ms nr stop).reason = .outOfBounds ∧
      (∀ a, (State.load img ms nr stop).mem.byte a = 0) ∧ ∀ t, step (State.load img ms nr stop) ≠ .next t) ∧
    (∀ header, State.load { img with header := header } ms nr stop = State.load img ms nr stop)

/-- Every state any run reaches from any loaded image at parameters in range, whatever STOP does, meets the
invariant, has the parameters it was constructed with, and no record of its output holds a zero byte
(70_reset_and_hazards.md section 1, 10_state.md sections 5 to 7, 45_special.md section 1). The canonical form of
memory in the invariant is the model's (log 10), and so is the list that holds STOP (log 3). -/
def Obligations.ReachableFromLoad : Prop :=
  ∀ (img : Image) (ms nr n : Nat) (stop : List Bool) (t : State), Config.NumRegsOK nr → Config.MemSizeOK ms →
    runSteps n (State.load img ms nr stop) = .next t →
    t.Inv ∧ t.numRegs = nr ∧ t.mem.size = ms ∧ (∀ r ∈ t.out, ∀ x ∈ r, x ≠ 0)

/-- 70_reset_and_hazards.md section 1 (empty code section; marked derived there): with an empty code section, entry
at the end of the data and the payload in memory, the first cycle faults IllegalInstruction if four bytes follow
in memory and OutOfBounds otherwise. -/
def Obligations.EmptyCodeSectionFaults : Prop :=
  ∀ (img : Image) (ms nr : Nat), img.code = [] → img.entry.toNat = img.data.length → img.data.length ≤ ms →
    (img.data.length + 4 ≤ ms → Faults (step (State.load img ms nr [])) (State.load img ms nr []) .illegalInstruction) ∧
    (ms < img.data.length + 4 → Faults (step (State.load img ms nr [])) (State.load img ms nr []) .outOfBounds)

/-- 20_memory.md section 3 (MemWrite) and section 4: a write in bounds puts the low 8n bits of the value big-endian
at a .. a+n−1 and changes no other byte; one out of bounds, a straddling one included, writes nothing and
faults. -/
def Obligations.MemWriteBytes : Prop :=
  ∀ (wd : Width) (a v : Word) (s : State),
    (a.toNat + widthBytes wd ≤ s.mem.size →
      Completes (storeAndAdvance wd a v s) (StoresBytes a.toNat (widthBytes wd) v.toNat s)) ∧
    (s.mem.size < a.toNat + widthBytes wd → Faults (storeAndAdvance wd a v s) s .outOfBounds)

/-- 20_memory.md sections 2 to 4 (byte order, the access primitives, and the mixed-width view, marked derived
there): a load of the same width and address after a store gives the stored bits; a load of bytes the store does
not touch gives what it gave; a word read back as halves and as bytes shows its big-endian parts. -/
def Obligations.LoadAfterStore : Prop :=
  (∀ (m : Memory) (wd : Width) (a : Nat) (v : Word),
    ((m.store wd a v).load wd a).toNat = v.toNat % 256 ^ widthBytes wd) ∧
  (∀ (m : Memory) (wd wd' : Width) (a b : Nat) (v : Word), (b + widthBytes wd' ≤ a ∨ a + widthBytes wd ≤ b) →
    (m.store wd a v).load wd' b = m.load wd' b) ∧
  (∀ (m : Memory) (a k : Nat) (v : Word), k < 3 →
    ((m.store .word a v).load .half (a + k)).toNat = v.toNat / 256 ^ (2 - k) % 65536) ∧
  (∀ (m : Memory) (a k : Nat) (v : Word), k < 4 →
    ((m.store .word a v).load .byte (a + k)).toNat = v.toNat / 256 ^ (3 - k) % 256)

/-- The model's canonical form of memory (INVENTORY, State): two memories in the form, of one size, that read the
same at every address are the same data. Derived from 10_state.md section 6, where memory is its size and its
bytes and nothing more. -/
def Obligations.CanonicalMemoriesEqual : Prop :=
  ∀ m m' : Memory, m.wf = true → m'.wf = true → m.size = m'.size → (∀ a, a < m.size → m.byte a = m'.byte a) → m = m'

/-- R312: a store, of any width and form, is seen by the very next fetch, with nothing in between: the step after it
executes whatever instruction's word the four bytes at pc hold once they are stored. So after STRD of an
instruction's word onto the four bytes that follow it, the next step executes that instruction. -/
def Obligations.StoredInstructionIsFetched : Prop :=
  (∀ (i : Instr) (s t : State), 4 ≤ instrOpcode i → instrOpcode i ≤ 6 → exec i s = .next t → NextFetchReads t) ∧
  (∀ (s : State) (r : BitVec 8) (v : BitVec 16) (i : Instr), s.status = .running → s.stopSampled = false →
    r.toNat < s.numRegs → v.toNat + 4 ≤ s.mem.size → v.toNat = s.pc.toNat + 4 → s.reg r.toNat = encode i →
    Completes (exec (.strd r v) s) fun t => t.pc.toNat = v.toNat ∧ step t = exec i t.afterSample)

/-- 40_fsm_dispatch.md section 2 (transitions): in state Running a step always has a next state, never a stop of the
model; it is Cancelled iff STOP was sampled true, Halted iff a HLT was fetched, and otherwise Running or
Faulted. -/
def Obligations.RunningStatesStep : Prop :=
  ∀ s : State, s.status = .running →
    ∃ t, step s = .next t ∧ (t.status = .cancelled ↔ s.stopSampled = true) ∧
      (t.status = .halted ↔ s.stopSampled = false ∧ s.pc.toNat + 4 ≤ s.mem.size ∧
        memNat s.mem s.pc.toNat 4 / 2 ^ 24 = 0x58)

/-- 40_fsm_dispatch.md section 2 (terminal states have no step) and 10_state.md section 9: in a terminal state no
step gives a next state, and the host receives the final state's components. That the model answers there with
its own named fault is its choice (log 4). -/
def Obligations.TerminalStatesHaveNoStep : Prop :=
  ∀ s : State, s.status ≠ .running →
    (∀ t, step s ≠ .next t) ∧ step s = .fault (.terminal s.status) ∧
      s.final = some ⟨s.status, s.reason, s.regs, s.flag, s.mem, s.pc, s.out⟩

/-- 60_exceptions.md section 2 and 70_reset_and_hazards.md section 3 (runaway programs): a step budget of n cycles
driven on STOP ends any run: from any running state, a terminal state is reached within n + 1 steps, and a run
that is still Running after n steps is Cancelled in the next. That the budget stands in the state as a list of
samples, and that the cancelling cycle uses its last one up, is the model's choice (log 3). -/
def Obligations.BudgetEndsEveryRun : Prop :=
  ∀ (n : Nat) (s : State), s.status = .running → s.stop = budgetStop n →
    (∃ k t, k ≤ n + 1 ∧ runSteps k s = .next t ∧ t.status ≠ .running) ∧
    (∀ t, runSteps n s = .next t → t.status = .running →
      step t = .next { t with status := .cancelled, stop := [] })

/-- R161, R162, R163: LDI, LDD and LDR. Each completes with the register holding the literal (truncated to the
width) or the 4-byte big-endian number at the address, zero-extended, and nothing else changed but pc; or faults
OutOfBounds. -/
def Obligations.LoadWordInstructions : Prop :=
  ∀ (s : State) (r : BitVec 8) (v : BitVec 16),
    ((encode (.ldi r v)).toNat = 0x04000000 + r.toNat * 2 ^ 16 + v.toNat ∧
      (encode (.ldd r v)).toNat = 0x05000000 + r.toNat * 2 ^ 16 + v.toNat ∧
      (encode (.ldr r v)).toNat = 0x06000000 + r.toNat * 2 ^ 16 + v.toNat) ∧
    (r.toNat < s.numRegs → Completes (exec (.ldi r v) s) (WritesReg r.toNat v.toNat s)) ∧
    (s.numRegs ≤ r.toNat → Faults (exec (.ldi r v) s) s .outOfBounds) ∧
    (r.toNat < s.numRegs → v.toNat + 4 ≤ s.mem.size →
      Completes (exec (.ldd r v) s) (WritesReg r.toNat (memNat s.mem v.toNat 4) s)) ∧
    ((s.numRegs ≤ r.toNat ∨ s.mem.size < v.toNat + 4) → Faults (exec (.ldd r v) s) s .outOfBounds) ∧
    (r.toNat < s.numRegs → v.toNat < s.numRegs → (s.reg v.toNat).toNat + 4 ≤ s.mem.size →
      Completes (exec (.ldr r v) s) (WritesReg r.toNat (memNat s.mem (s.reg v.toNat).toNat 4) s)) ∧
    ((s.numRegs ≤ r.toNat ∨ s.numRegs ≤ v.toNat ∨ s.mem.size < (s.reg v.toNat).toNat + 4) →
      Faults (exec (.ldr r v) s) s .outOfBounds)

/-- R164, R165, R166: LDHI, LDHD and LDHR. Each completes with the register holding the literal (truncated to the
width) or the 2-byte big-endian number at the address, zero-extended, and nothing else changed but pc; or faults
OutOfBounds. -/
def Obligations.LoadHalfInstructions : Prop :=
  ∀ (s : State) (r : BitVec 8) (v : BitVec 16),
    ((encode (.ldhi r v)).toNat = 0x08000000 + r.toNat * 2 ^ 16 + v.toNat ∧
      (encode (.ldhd r v)).toNat = 0x09000000 + r.toNat * 2 ^ 16 + v.toNat ∧
      (encode (.ldhr r v)).toNat = 0x0A000000 + r.toNat * 2 ^ 16 + v.toNat) ∧
    (r.toNat < s.numRegs → Completes (exec (.ldhi r v) s) (WritesReg r.toNat v.toNat s)) ∧
    (s.numRegs ≤ r.toNat → Faults (exec (.ldhi r v) s) s .outOfBounds) ∧
    (r.toNat < s.numRegs → v.toNat + 2 ≤ s.mem.size →
      Completes (exec (.ldhd r v) s) (WritesReg r.toNat (memNat s.mem v.toNat 2) s)) ∧
    ((s.numRegs ≤ r.toNat ∨ s.mem.size < v.toNat + 2) → Faults (exec (.ldhd r v) s) s .outOfBounds) ∧
    (r.toNat < s.numRegs → v.toNat < s.numRegs → (s.reg v.toNat).toNat + 2 ≤ s.mem.size →
      Completes (exec (.ldhr r v) s) (WritesReg r.toNat (memNat s.mem (s.reg v.toNat).toNat 2) s)) ∧
    ((s.numRegs ≤ r.toNat ∨ s.numRegs ≤ v.toNat ∨ s.mem.size < (s.reg v.toNat).toNat + 2) →
      Faults (exec (.ldhr r v) s) s .outOfBounds)

/-- R167, R168, R169: LDBI, LDBD and LDBR. Each completes with the register holding the literal (truncated to the
width) or the 1-byte big-endian number at the address, zero-extended, and nothing else changed but pc; or faults
OutOfBounds. -/
def Obligations.LoadByteInstructions : Prop :=
  ∀ (s : State) (r : BitVec 8) (v : BitVec 16),
    ((encode (.ldbi r v)).toNat = 0x0C000000 + r.toNat * 2 ^ 16 + v.toNat ∧
      (encode (.ldbd r v)).toNat = 0x0D000000 + r.toNat * 2 ^ 16 + v.toNat ∧
      (encode (.ldbr r v)).toNat = 0x0E000000 + r.toNat * 2 ^ 16 + v.toNat) ∧
    (r.toNat < s.numRegs → Completes (exec (.ldbi r v) s) (WritesReg r.toNat (v.toNat % 256) s)) ∧
    (s.numRegs ≤ r.toNat → Faults (exec (.ldbi r v) s) s .outOfBounds) ∧
    (r.toNat < s.numRegs → v.toNat + 1 ≤ s.mem.size →
      Completes (exec (.ldbd r v) s) (WritesReg r.toNat (memNat s.mem v.toNat 1) s)) ∧
    ((s.numRegs ≤ r.toNat ∨ s.mem.size < v.toNat + 1) → Faults (exec (.ldbd r v) s) s .outOfBounds) ∧
    (r.toNat < s.numRegs → v.toNat < s.numRegs → (s.reg v.toNat).toNat + 1 ≤ s.mem.size →
      Completes (exec (.ldbr r v) s) (WritesReg r.toNat (memNat s.mem (s.reg v.toNat).toNat 1) s)) ∧
    ((s.numRegs ≤ r.toNat ∨ s.numRegs ≤ v.toNat ∨ s.mem.size < (s.reg v.toNat).toNat + 1) →
      Faults (exec (.ldbr r v) s) s .outOfBounds) ∧
    assembleInstr [] "LDBI" [.reg r.toNat, .num v.toNat] = .ok (.ldbi r v)

/-- R170, R171: STRD and STRR. Each completes with the 4 bytes at the effective address (computed by the operand
form the meaning uses) holding the low 32 bits of the register, big-endian, and nothing else changed but pc, and
the next fetch reads them; or faults OutOfBounds and writes nothing. -/
def Obligations.StoreWordInstructions : Prop :=
  ∀ (s : State) (r : BitVec 8) (v : BitVec 16),
    ((encode (.strd r v)).toNat = 0x11000000 + r.toNat * 2 ^ 16 + v.toNat ∧
      (encode (.strr r v)).toNat = 0x12000000 + r.toNat * 2 ^ 16 + v.toNat) ∧
    (∀ a : Word, eaDirect v = a → r.toNat < s.numRegs → a.toNat + 4 ≤ s.mem.size →
      a.toNat = v.toNat ∧ Completes (exec (.strd r v) s) fun t =>
        StoresBytes a.toNat 4 (s.reg r.toNat).toNat s t ∧ NextFetchReads t) ∧
    ((s.numRegs ≤ r.toNat ∨ s.mem.size < v.toNat + 4) → Faults (exec (.strd r v) s) s .outOfBounds) ∧
    (∀ a : Word, eaRegister v s = a → r.toNat < s.numRegs → v.toNat < s.numRegs → a.toNat + 4 ≤ s.mem.size →
      a = s.reg v.toNat ∧ Completes (exec (.strr r v) s) fun t =>
        StoresBytes a.toNat 4 (s.reg r.toNat).toNat s t ∧ NextFetchReads t) ∧
    ((s.numRegs ≤ r.toNat ∨ s.numRegs ≤ v.toNat ∨ s.mem.size < (s.reg v.toNat).toNat + 4) →
      Faults (exec (.strr r v) s) s .outOfBounds)

/-- R172, R173: STRHD and STRHR. Each completes with the 2 bytes at the effective address (computed by the operand
form the meaning uses) holding the low 16 bits of the register, big-endian, and nothing else changed but pc, and
the next fetch reads them; or faults OutOfBounds and writes nothing. -/
def Obligations.StoreHalfInstructions : Prop :=
  ∀ (s : State) (r : BitVec 8) (v : BitVec 16),
    ((encode (.strhd r v)).toNat = 0x15000000 + r.toNat * 2 ^ 16 + v.toNat ∧
      (encode (.strhr r v)).toNat = 0x16000000 + r.toNat * 2 ^ 16 + v.toNat) ∧
    (∀ a : Word, eaDirect v = a → r.toNat < s.numRegs → a.toNat + 2 ≤ s.mem.size →
      a.toNat = v.toNat ∧ Completes (exec (.strhd r v) s) fun t =>
        StoresBytes a.toNat 2 (s.reg r.toNat).toNat s t ∧ NextFetchReads t) ∧
    ((s.numRegs ≤ r.toNat ∨ s.mem.size < v.toNat + 2) → Faults (exec (.strhd r v) s) s .outOfBounds) ∧
    (∀ a : Word, eaRegister v s = a → r.toNat < s.numRegs → v.toNat < s.numRegs → a.toNat + 2 ≤ s.mem.size →
      a = s.reg v.toNat ∧ Completes (exec (.strhr r v) s) fun t =>
        StoresBytes a.toNat 2 (s.reg r.toNat).toNat s t ∧ NextFetchReads t) ∧
    ((s.numRegs ≤ r.toNat ∨ s.numRegs ≤ v.toNat ∨ s.mem.size < (s.reg v.toNat).toNat + 2) →
      Faults (exec (.strhr r v) s) s .outOfBounds)

/-- R174, R175: STRBD and STRBR. Each completes with the 1 bytes at the effective address (computed by the operand
form the meaning uses) holding the low 8 bits of the register, big-endian, and nothing else changed but pc, and
the next fetch reads them; or faults OutOfBounds and writes nothing. -/
def Obligations.StoreByteInstructions : Prop :=
  ∀ (s : State) (r : BitVec 8) (v : BitVec 16),
    ((encode (.strbd r v)).toNat = 0x19000000 + r.toNat * 2 ^ 16 + v.toNat ∧
      (encode (.strbr r v)).toNat = 0x1A000000 + r.toNat * 2 ^ 16 + v.toNat) ∧
    (∀ a : Word, eaDirect v = a → r.toNat < s.numRegs → a.toNat + 1 ≤ s.mem.size →
      a.toNat = v.toNat ∧ Completes (exec (.strbd r v) s) fun t =>
        StoresBytes a.toNat 1 (s.reg r.toNat).toNat s t ∧ NextFetchReads t) ∧
    ((s.numRegs ≤ r.toNat ∨ s.mem.size < v.toNat + 1) → Faults (exec (.strbd r v) s) s .outOfBounds) ∧
    (∀ a : Word, eaRegister v s = a → r.toNat < s.numRegs → v.toNat < s.numRegs → a.toNat + 1 ≤ s.mem.size →
      a = s.reg v.toNat ∧ Completes (exec (.strbr r v) s) fun t =>
        StoresBytes a.toNat 1 (s.reg r.toNat).toNat s t ∧ NextFetchReads t) ∧
    ((s.numRegs ≤ r.toNat ∨ s.numRegs ≤ v.toNat ∨ s.mem.size < (s.reg v.toNat).toNat + 1) →
      Faults (exec (.strbr r v) s) s .outOfBounds)

/-- R176: MOV copies a register; its C bits are ignored and its md must be 0. -/
def Obligations.MoveInstruction : Prop :=
  (∀ (d r c : BitVec 8), (encode (.mov d r)).toNat = 0x1C000000 + d.toNat * 2 ^ 16 + r.toNat * 2 ^ 8 ∧
    decodeWord (BitVec.ofNat 32 (0x1C000000 + d.toNat * 2 ^ 16 + r.toNat * 2 ^ 8 + c.toNat)) = .instr (.mov d r)) ∧
  (∀ w : Word, 0x1D ≤ w.toNat / 2 ^ 24 → w.toNat / 2 ^ 24 ≤ 0x1F → ∃ why, decodeWord w = .illegal why) ∧
  (∀ (s : State) (d r : BitVec 8),
    (d.toNat < s.numRegs → r.toNat < s.numRegs →
      Completes (exec (.mov d r) s) (WritesReg d.toNat (s.reg r.toNat).toNat s)) ∧
    ((s.numRegs ≤ d.toNat ∨ s.numRegs ≤ r.toNat) → Faults (exec (.mov d r) s) s .outOfBounds))

/-- R191, R192, R193: ADDI and ADDD in place, ADDR on three registers (sources read before the destination is
written): the sum modulo 2^32, nothing else changed but pc; or the faults the rules give. -/
def Obligations.AddInstructions : Prop :=
  (∀ (d : BitVec 8) (v : BitVec 16),
    (encode (.addi d v)).toNat = 0x20000000 + d.toNat * 2 ^ 16 + v.toNat ∧
      (encode (.addd d v)).toNat = 0x21000000 + d.toNat * 2 ^ 16 + v.toNat) ∧
  (∀ d a b : BitVec 8, (encode (.addr d a b)).toNat = 0x22000000 + d.toNat * 2 ^ 16 + a.toNat * 2 ^ 8 + b.toNat) ∧
  (∀ (s : State) (d : BitVec 8) (v : BitVec 16),
    (d.toNat < s.numRegs →
      Completes (exec (.addi d v) s) (WritesReg d.toNat (((s.reg d.toNat).toNat + v.toNat) % 2 ^ 32) s)) ∧
    (s.numRegs ≤ d.toNat → Faults (exec (.addi d v) s) s .outOfBounds) ∧
    (d.toNat < s.numRegs → v.toNat + 4 ≤ s.mem.size →
      Completes (exec (.addd d v) s) (WritesReg d.toNat (((s.reg d.toNat).toNat + (memNat s.mem v.toNat 4)) % 2 ^ 32) s)) ∧
    ((s.numRegs ≤ d.toNat ∨ s.mem.size < v.toNat + 4) → Faults (exec (.addd d v) s) s .outOfBounds)) ∧
  (∀ (s : State) (d a b : BitVec 8),
    (d.toNat < s.numRegs → a.toNat < s.numRegs → b.toNat < s.numRegs →
      Completes (exec (.addr d a b) s) (WritesReg d.toNat (((s.reg a.toNat).toNat + (s.reg b.toNat).toNat) % 2 ^ 32) s)) ∧
    ((s.numRegs ≤ d.toNat ∨ s.numRegs ≤ a.toNat ∨ s.numRegs ≤ b.toNat) →
      Faults (exec (.addr d a b) s) s .outOfBounds))

/-- R194, R195, R196: SUBI and SUBD in place, SUBR on three registers (sources read before the destination is
written): the difference modulo 2^32 (first minus second), nothing else changed but pc; or the faults the rules
give. -/
def Obligations.SubtractInstructions : Prop :=
  (∀ (d : BitVec 8) (v : BitVec 16),
    (encode (.subi d v)).toNat = 0x24000000 + d.toNat * 2 ^ 16 + v.toNat ∧
      (encode (.subd d v)).toNat = 0x25000000 + d.toNat * 2 ^ 16 + v.toNat) ∧
  (∀ d a b : BitVec 8, (encode (.subr d a b)).toNat = 0x26000000 + d.toNat * 2 ^ 16 + a.toNat * 2 ^ 8 + b.toNat) ∧
  (∀ (s : State) (d : BitVec 8) (v : BitVec 16),
    (d.toNat < s.numRegs →
      Completes (exec (.subi d v) s) (WritesReg d.toNat (((s.reg d.toNat).toNat + 2 ^ 32 - v.toNat) % 2 ^ 32) s)) ∧
    (s.numRegs ≤ d.toNat → Faults (exec (.subi d v) s) s .outOfBounds) ∧
    (d.toNat < s.numRegs → v.toNat + 4 ≤ s.mem.size →
      Completes (exec (.subd d v) s) (WritesReg d.toNat (((s.reg d.toNat).toNat + 2 ^ 32 - (memNat s.mem v.toNat 4)) % 2 ^ 32) s)) ∧
    ((s.numRegs ≤ d.toNat ∨ s.mem.size < v.toNat + 4) → Faults (exec (.subd d v) s) s .outOfBounds)) ∧
  (∀ (s : State) (d a b : BitVec 8),
    (d.toNat < s.numRegs → a.toNat < s.numRegs → b.toNat < s.numRegs →
      Completes (exec (.subr d a b) s) (WritesReg d.toNat (((s.reg a.toNat).toNat + 2 ^ 32 - (s.reg b.toNat).toNat) % 2 ^ 32) s)) ∧
    ((s.numRegs ≤ d.toNat ∨ s.numRegs ≤ a.toNat ∨ s.numRegs ≤ b.toNat) →
      Faults (exec (.subr d a b) s) s .outOfBounds))

/-- R197, R198, R199: MULI and MULD in place, MULR on three registers (sources read before the destination is
written): the low 32 bits of the product, nothing else changed but pc; or the faults the rules give. -/
def Obligations.MultiplyInstructions : Prop :=
  (∀ (d : BitVec 8) (v : BitVec 16),
    (encode (.muli d v)).toNat = 0x28000000 + d.toNat * 2 ^ 16 + v.toNat ∧
      (encode (.muld d v)).toNat = 0x29000000 + d.toNat * 2 ^ 16 + v.toNat) ∧
  (∀ d a b : BitVec 8, (encode (.mulr d a b)).toNat = 0x2A000000 + d.toNat * 2 ^ 16 + a.toNat * 2 ^ 8 + b.toNat) ∧
  (∀ (s : State) (d : BitVec 8) (v : BitVec 16),
    (d.toNat < s.numRegs →
      Completes (exec (.muli d v) s) (WritesReg d.toNat (((s.reg d.toNat).toNat * v.toNat) % 2 ^ 32) s)) ∧
    (s.numRegs ≤ d.toNat → Faults (exec (.muli d v) s) s .outOfBounds) ∧
    (d.toNat < s.numRegs → v.toNat + 4 ≤ s.mem.size →
      Completes (exec (.muld d v) s) (WritesReg d.toNat (((s.reg d.toNat).toNat * (memNat s.mem v.toNat 4)) % 2 ^ 32) s)) ∧
    ((s.numRegs ≤ d.toNat ∨ s.mem.size < v.toNat + 4) → Faults (exec (.muld d v) s) s .outOfBounds)) ∧
  (∀ (s : State) (d a b : BitVec 8),
    (d.toNat < s.numRegs → a.toNat < s.numRegs → b.toNat < s.numRegs →
      Completes (exec (.mulr d a b) s) (WritesReg d.toNat (((s.reg a.toNat).toNat * (s.reg b.toNat).toNat) % 2 ^ 32) s)) ∧
    ((s.numRegs ≤ d.toNat ∨ s.numRegs ≤ a.toNat ∨ s.numRegs ≤ b.toNat) →
      Faults (exec (.mulr d a b) s) s .outOfBounds))

/-- R200, R201, R202: DIVI and DIVD in place, DIVR on three registers (sources read before the destination is
written): the unsigned quotient, truncated, nothing else changed but pc; or the faults the rules give. -/
def Obligations.DivideInstructions : Prop :=
  (∀ (d : BitVec 8) (v : BitVec 16),
    (encode (.divi d v)).toNat = 0x2C000000 + d.toNat * 2 ^ 16 + v.toNat ∧
      (encode (.divd d v)).toNat = 0x2D000000 + d.toNat * 2 ^ 16 + v.toNat) ∧
  (∀ d a b : BitVec 8, (encode (.divr d a b)).toNat = 0x2E000000 + d.toNat * 2 ^ 16 + a.toNat * 2 ^ 8 + b.toNat) ∧
  (∀ (s : State) (d : BitVec 8) (v : BitVec 16),
    (d.toNat < s.numRegs → v.toNat ≠ 0 →
      Completes (exec (.divi d v) s) (WritesReg d.toNat ((s.reg d.toNat).toNat / v.toNat) s)) ∧
    (s.numRegs ≤ d.toNat → Faults (exec (.divi d v) s) s .outOfBounds) ∧
    (d.toNat < s.numRegs → v.toNat + 4 ≤ s.mem.size → memNat s.mem v.toNat 4 ≠ 0 →
      Completes (exec (.divd d v) s) (WritesReg d.toNat ((s.reg d.toNat).toNat / (memNat s.mem v.toNat 4)) s)) ∧
    ((s.numRegs ≤ d.toNat ∨ s.mem.size < v.toNat + 4) → Faults (exec (.divd d v) s) s .outOfBounds)) ∧
  (∀ (s : State) (d a b : BitVec 8),
    (d.toNat < s.numRegs → a.toNat < s.numRegs → b.toNat < s.numRegs → s.reg b.toNat ≠ 0 →
      Completes (exec (.divr d a b) s) (WritesReg d.toNat ((s.reg a.toNat).toNat / (s.reg b.toNat).toNat) s)) ∧
    ((s.numRegs ≤ d.toNat ∨ s.numRegs ≤ a.toNat ∨ s.numRegs ≤ b.toNat) →
      Faults (exec (.divr d a b) s) s .outOfBounds)) ∧
  (∀ (s : State) (d : BitVec 8) (v : BitVec 16), d.toNat < s.numRegs →
    (v.toNat = 0 → Faults (exec (.divi d v) s) s .divisionByZero) ∧
    (v.toNat + 4 ≤ s.mem.size → memNat s.mem v.toNat 4 = 0 → Faults (exec (.divd d v) s) s .divisionByZero)) ∧
  (∀ (s : State) (d a b : BitVec 8), d.toNat < s.numRegs → a.toNat < s.numRegs → b.toNat < s.numRegs →
    s.reg b.toNat = 0 → Faults (exec (.divr d a b) s) s .divisionByZero)

/-- R211, R212, R213: EQI, EQD and EQR set the flag to "equal", unsigned, first operand x[p], and change nothing
else but pc; or fault OutOfBounds with the flag unchanged. -/
def Obligations.EqualComparisons : Prop :=
  ∀ (s : State) (p : BitVec 8) (v : BitVec 16),
    ((encode (.eqi p v)).toNat = 0x30000000 + p.toNat * 2 ^ 16 + v.toNat ∧
      (encode (.eqd p v)).toNat = 0x31000000 + p.toNat * 2 ^ 16 + v.toNat ∧
      (encode (.eqr p v)).toNat = 0x32000000 + p.toNat * 2 ^ 16 + v.toNat) ∧
    (p.toNat < s.numRegs → Completes (exec (.eqi p v) s) (WritesFlag (decide ((s.reg p.toNat).toNat = v.toNat)) s)) ∧
    (s.numRegs ≤ p.toNat → Faults (exec (.eqi p v) s) s .outOfBounds) ∧
    (p.toNat < s.numRegs → v.toNat + 4 ≤ s.mem.size →
      Completes (exec (.eqd p v) s) (WritesFlag (decide ((s.reg p.toNat).toNat = memNat s.mem v.toNat 4)) s)) ∧
    ((s.numRegs ≤ p.toNat ∨ s.mem.size < v.toNat + 4) → Faults (exec (.eqd p v) s) s .outOfBounds) ∧
    (p.toNat < s.numRegs → v.toNat < s.numRegs →
      Completes (exec (.eqr p v) s) (WritesFlag (decide ((s.reg p.toNat).toNat = (s.reg v.toNat).toNat)) s)) ∧
    ((s.numRegs ≤ p.toNat ∨ s.numRegs ≤ v.toNat) → Faults (exec (.eqr p v) s) s .outOfBounds)

/-- R214, R215, R216: NEQI, NEQD and NEQR set the flag to "not equal", unsigned, first operand x[p], and change
nothing else but pc; or fault OutOfBounds with the flag unchanged. -/
def Obligations.NotEqualComparisons : Prop :=
  ∀ (s : State) (p : BitVec 8) (v : BitVec 16),
    ((encode (.neqi p v)).toNat = 0x34000000 + p.toNat * 2 ^ 16 + v.toNat ∧
      (encode (.neqd p v)).toNat = 0x35000000 + p.toNat * 2 ^ 16 + v.toNat ∧
      (encode (.neqr p v)).toNat = 0x36000000 + p.toNat * 2 ^ 16 + v.toNat) ∧
    (p.toNat < s.numRegs → Completes (exec (.neqi p v) s) (WritesFlag (decide ((s.reg p.toNat).toNat ≠ v.toNat)) s)) ∧
    (s.numRegs ≤ p.toNat → Faults (exec (.neqi p v) s) s .outOfBounds) ∧
    (p.toNat < s.numRegs → v.toNat + 4 ≤ s.mem.size →
      Completes (exec (.neqd p v) s) (WritesFlag (decide ((s.reg p.toNat).toNat ≠ memNat s.mem v.toNat 4)) s)) ∧
    ((s.numRegs ≤ p.toNat ∨ s.mem.size < v.toNat + 4) → Faults (exec (.neqd p v) s) s .outOfBounds) ∧
    (p.toNat < s.numRegs → v.toNat < s.numRegs →
      Completes (exec (.neqr p v) s) (WritesFlag (decide ((s.reg p.toNat).toNat ≠ (s.reg v.toNat).toNat)) s)) ∧
    ((s.numRegs ≤ p.toNat ∨ s.numRegs ≤ v.toNat) → Faults (exec (.neqr p v) s) s .outOfBounds)

/-- R217, R218, R219: GTI, GTD and GTR set the flag to "greater than", unsigned, first operand x[p], and change
nothing else but pc; or fault OutOfBounds with the flag unchanged. -/
def Obligations.GreaterThanComparisons : Prop :=
  ∀ (s : State) (p : BitVec 8) (v : BitVec 16),
    ((encode (.gti p v)).toNat = 0x38000000 + p.toNat * 2 ^ 16 + v.toNat ∧
      (encode (.gtd p v)).toNat = 0x39000000 + p.toNat * 2 ^ 16 + v.toNat ∧
      (encode (.gtr p v)).toNat = 0x3A000000 + p.toNat * 2 ^ 16 + v.toNat) ∧
    (p.toNat < s.numRegs → Completes (exec (.gti p v) s) (WritesFlag (decide ((s.reg p.toNat).toNat > v.toNat)) s)) ∧
    (s.numRegs ≤ p.toNat → Faults (exec (.gti p v) s) s .outOfBounds) ∧
    (p.toNat < s.numRegs → v.toNat + 4 ≤ s.mem.size →
      Completes (exec (.gtd p v) s) (WritesFlag (decide ((s.reg p.toNat).toNat > memNat s.mem v.toNat 4)) s)) ∧
    ((s.numRegs ≤ p.toNat ∨ s.mem.size < v.toNat + 4) → Faults (exec (.gtd p v) s) s .outOfBounds) ∧
    (p.toNat < s.numRegs → v.toNat < s.numRegs →
      Completes (exec (.gtr p v) s) (WritesFlag (decide ((s.reg p.toNat).toNat > (s.reg v.toNat).toNat)) s)) ∧
    ((s.numRegs ≤ p.toNat ∨ s.numRegs ≤ v.toNat) → Faults (exec (.gtr p v) s) s .outOfBounds)

/-- R220, R221, R222: GTEI, GTED and GTER set the flag to "greater than or equal", unsigned, first operand x[p], and
change nothing else but pc; or fault OutOfBounds with the flag unchanged. -/
def Obligations.GreaterOrEqualComparisons : Prop :=
  ∀ (s : State) (p : BitVec 8) (v : BitVec 16),
    ((encode (.gtei p v)).toNat = 0x3C000000 + p.toNat * 2 ^ 16 + v.toNat ∧
      (encode (.gted p v)).toNat = 0x3D000000 + p.toNat * 2 ^ 16 + v.toNat ∧
      (encode (.gter p v)).toNat = 0x3E000000 + p.toNat * 2 ^ 16 + v.toNat) ∧
    (p.toNat < s.numRegs → Completes (exec (.gtei p v) s) (WritesFlag (decide ((s.reg p.toNat).toNat ≥ v.toNat)) s)) ∧
    (s.numRegs ≤ p.toNat → Faults (exec (.gtei p v) s) s .outOfBounds) ∧
    (p.toNat < s.numRegs → v.toNat + 4 ≤ s.mem.size →
      Completes (exec (.gted p v) s) (WritesFlag (decide ((s.reg p.toNat).toNat ≥ memNat s.mem v.toNat 4)) s)) ∧
    ((s.numRegs ≤ p.toNat ∨ s.mem.size < v.toNat + 4) → Faults (exec (.gted p v) s) s .outOfBounds) ∧
    (p.toNat < s.numRegs → v.toNat < s.numRegs →
      Completes (exec (.gter p v) s) (WritesFlag (decide ((s.reg p.toNat).toNat ≥ (s.reg v.toNat).toNat)) s)) ∧
    ((s.numRegs ≤ p.toNat ∨ s.numRegs ≤ v.toNat) → Faults (exec (.gter p v) s) s .outOfBounds)

/-- R223, R224, R225: LTI, LTD and LTR set the flag to "less than", unsigned, first operand x[p], and change nothing
else but pc; or fault OutOfBounds with the flag unchanged. -/
def Obligations.LessThanComparisons : Prop :=
  ∀ (s : State) (p : BitVec 8) (v : BitVec 16),
    ((encode (.lti p v)).toNat = 0x40000000 + p.toNat * 2 ^ 16 + v.toNat ∧
      (encode (.ltd p v)).toNat = 0x41000000 + p.toNat * 2 ^ 16 + v.toNat ∧
      (encode (.ltr p v)).toNat = 0x42000000 + p.toNat * 2 ^ 16 + v.toNat) ∧
    (p.toNat < s.numRegs → Completes (exec (.lti p v) s) (WritesFlag (decide ((s.reg p.toNat).toNat < v.toNat)) s)) ∧
    (s.numRegs ≤ p.toNat → Faults (exec (.lti p v) s) s .outOfBounds) ∧
    (p.toNat < s.numRegs → v.toNat + 4 ≤ s.mem.size →
      Completes (exec (.ltd p v) s) (WritesFlag (decide ((s.reg p.toNat).toNat < memNat s.mem v.toNat 4)) s)) ∧
    ((s.numRegs ≤ p.toNat ∨ s.mem.size < v.toNat + 4) → Faults (exec (.ltd p v) s) s .outOfBounds) ∧
    (p.toNat < s.numRegs → v.toNat < s.numRegs →
      Completes (exec (.ltr p v) s) (WritesFlag (decide ((s.reg p.toNat).toNat < (s.reg v.toNat).toNat)) s)) ∧
    ((s.numRegs ≤ p.toNat ∨ s.numRegs ≤ v.toNat) → Faults (exec (.ltr p v) s) s .outOfBounds)

/-- R226, R227, R228: LTEI, LTED and LTER set the flag to "less than or equal", unsigned, first operand x[p], and
change nothing else but pc; or fault OutOfBounds with the flag unchanged. -/
def Obligations.LessOrEqualComparisons : Prop :=
  ∀ (s : State) (p : BitVec 8) (v : BitVec 16),
    ((encode (.ltei p v)).toNat = 0x44000000 + p.toNat * 2 ^ 16 + v.toNat ∧
      (encode (.lted p v)).toNat = 0x45000000 + p.toNat * 2 ^ 16 + v.toNat ∧
      (encode (.lter p v)).toNat = 0x46000000 + p.toNat * 2 ^ 16 + v.toNat) ∧
    (p.toNat < s.numRegs → Completes (exec (.ltei p v) s) (WritesFlag (decide ((s.reg p.toNat).toNat ≤ v.toNat)) s)) ∧
    (s.numRegs ≤ p.toNat → Faults (exec (.ltei p v) s) s .outOfBounds) ∧
    (p.toNat < s.numRegs → v.toNat + 4 ≤ s.mem.size →
      Completes (exec (.lted p v) s) (WritesFlag (decide ((s.reg p.toNat).toNat ≤ memNat s.mem v.toNat 4)) s)) ∧
    ((s.numRegs ≤ p.toNat ∨ s.mem.size < v.toNat + 4) → Faults (exec (.lted p v) s) s .outOfBounds) ∧
    (p.toNat < s.numRegs → v.toNat < s.numRegs →
      Completes (exec (.lter p v) s) (WritesFlag (decide ((s.reg p.toNat).toNat ≤ (s.reg v.toNat).toNat)) s)) ∧
    ((s.numRegs ≤ p.toNat ∨ s.numRegs ≤ v.toNat) → Faults (exec (.lter p v) s) s .outOfBounds)

/-- R241, R242, R243: JMPI, JMPD and JMPR jump always: pc is the literal, the word stored at the address or the
register, nothing else changes, and a target outside memory faults at the next fetch, not here. -/
def Obligations.JumpAlwaysInstructions : Prop :=
  ∀ (s : State) (v : BitVec 24),
    ((encode (.jmpi v)).toNat = 0x48000000 + v.toNat ∧
      (encode (.jmpd v)).toNat = 0x49000000 + v.toNat ∧
      (encode (.jmpr v)).toNat = 0x4A000000 + v.toNat) ∧
    (Completes (exec (.jmpi v) s) fun t => SetsPc (BitVec.ofNat 32 v.toNat) s t ∧ NextFetchFaults t) ∧
    (v.toNat + 4 ≤ s.mem.size →
      Completes (exec (.jmpd v) s) fun t => SetsPc (BitVec.ofNat 32 (memNat s.mem v.toNat 4)) s t ∧ NextFetchFaults t) ∧
    (s.mem.size < v.toNat + 4 → Faults (exec (.jmpd v) s) s .outOfBounds) ∧
    (v.toNat < s.numRegs →
      Completes (exec (.jmpr v) s) fun t => SetsPc (s.reg v.toNat) s t ∧ NextFetchFaults t) ∧
    (s.numRegs ≤ v.toNat → Faults (exec (.jmpr v) s) s .outOfBounds)

/-- R244, R245, R246: JMPEI, JMPED and JMPER jump if flag is true: pc is the literal, the word stored at the address
or the register, nothing else changes, and a target outside memory faults at the next fetch, not here; not
taken, pc advances by 4 and no memory is accessed; the register index is checked either way. -/
def Obligations.JumpIfSetInstructions : Prop :=
  ∀ (s : State) (v : BitVec 24),
    ((encode (.jmpei v)).toNat = 0x4C000000 + v.toNat ∧
      (encode (.jmped v)).toNat = 0x4D000000 + v.toNat ∧
      (encode (.jmper v)).toNat = 0x4E000000 + v.toNat) ∧
    (s.flag = true → Completes (exec (.jmpei v) s) fun t => SetsPc (BitVec.ofNat 32 v.toNat) s t ∧ NextFetchFaults t) ∧
    (s.flag = true → v.toNat + 4 ≤ s.mem.size →
      Completes (exec (.jmped v) s) fun t => SetsPc (BitVec.ofNat 32 (memNat s.mem v.toNat 4)) s t ∧ NextFetchFaults t) ∧
    (s.flag = true → s.mem.size < v.toNat + 4 → Faults (exec (.jmped v) s) s .outOfBounds) ∧
    (s.flag = true → v.toNat < s.numRegs →
      Completes (exec (.jmper v) s) fun t => SetsPc (s.reg v.toNat) s t ∧ NextFetchFaults t) ∧
    (s.numRegs ≤ v.toNat → Faults (exec (.jmper v) s) s .outOfBounds) ∧
    (s.flag = false →
      Completes (exec (.jmpei v) s) (SetsPc (s.pc + 4) s) ∧
      Completes (exec (.jmped v) s) (SetsPc (s.pc + 4) s) ∧
      (v.toNat < s.numRegs → Completes (exec (.jmper v) s) (SetsPc (s.pc + 4) s)))

/-- R247, R248, R249: JMPNEI, JMPNED and JMPNER jump if flag is false: pc is the literal, the word stored at the
address or the register, nothing else changes, and a target outside memory faults at the next fetch, not here;
not taken, pc advances by 4 and no memory is accessed; the register index is checked either way. -/
def Obligations.JumpIfClearInstructions : Prop :=
  ∀ (s : State) (v : BitVec 24),
    ((encode (.jmpnei v)).toNat = 0x50000000 + v.toNat ∧
      (encode (.jmpned v)).toNat = 0x51000000 + v.toNat ∧
      (encode (.jmpner v)).toNat = 0x52000000 + v.toNat) ∧
    (s.flag = false → Completes (exec (.jmpnei v) s) fun t => SetsPc (BitVec.ofNat 32 v.toNat) s t ∧ NextFetchFaults t) ∧
    (s.flag = false → v.toNat + 4 ≤ s.mem.size →
      Completes (exec (.jmpned v) s) fun t => SetsPc (BitVec.ofNat 32 (memNat s.mem v.toNat 4)) s t ∧ NextFetchFaults t) ∧
    (s.flag = false → s.mem.size < v.toNat + 4 → Faults (exec (.jmpned v) s) s .outOfBounds) ∧
    (s.flag = false → v.toNat < s.numRegs →
      Completes (exec (.jmpner v) s) fun t => SetsPc (s.reg v.toNat) s t ∧ NextFetchFaults t) ∧
    (s.numRegs ≤ v.toNat → Faults (exec (.jmpner v) s) s .outOfBounds) ∧
    (s.flag = true →
      Completes (exec (.jmpnei v) s) (SetsPc (s.pc + 4) s) ∧
      Completes (exec (.jmpned v) s) (SetsPc (s.pc + 4) s) ∧
      (v.toNat < s.numRegs → Completes (exec (.jmpner v) s) (SetsPc (s.pc + 4) s)))

/-- R261, R262, R263: PRTSI, PRTSD and PRTSR emit, as one record, the bytes from the start up to the first zero
byte, and change nothing else but pc; they fault OutOfBounds for a start (or a pointer word, or a register
index) out of range, and UnterminatedString if no zero byte follows in memory. -/
def Obligations.PrintStringInstructions : Prop :=
  ∀ (s : State) (v : BitVec 24),
    ((encode (.prtsi v)).toNat = 0x54000000 + v.toNat ∧ (encode (.prtsd v)).toNat = 0x55000000 + v.toNat ∧
      (encode (.prtsr v)).toNat = 0x56000000 + v.toNat) ∧
    (s.mem.size ≤ v.toNat → Faults (exec (.prtsi v) s) s .outOfBounds) ∧
    (∀ n, v.toNat + n < s.mem.size →
      s.mem.byte (v.toNat + n) = 0 → (∀ k, k < n → s.mem.byte (v.toNat + k) ≠ 0) →
      ∃ record : List Byte, record.length = n ∧
        (∀ k, k < n → record.getD k 0 = s.mem.byte (v.toNat + k)) ∧
        Completes (exec (.prtsi v) s) (Emits record s)) ∧
    (v.toNat < s.mem.size →
      (∀ k, v.toNat + k < s.mem.size → s.mem.byte (v.toNat + k) ≠ 0) →
      Faults (exec (.prtsi v) s) s .unterminatedString) ∧
    (s.mem.size < v.toNat + 4 → Faults (exec (.prtsd v) s) s .outOfBounds) ∧
    (v.toNat + 4 ≤ s.mem.size → s.mem.size ≤ memNat s.mem v.toNat 4 → Faults (exec (.prtsd v) s) s .outOfBounds) ∧
    (∀ n, v.toNat + 4 ≤ s.mem.size → memNat s.mem v.toNat 4 + n < s.mem.size →
      s.mem.byte (memNat s.mem v.toNat 4 + n) = 0 → (∀ k, k < n → s.mem.byte (memNat s.mem v.toNat 4 + k) ≠ 0) →
      ∃ record : List Byte, record.length = n ∧
        (∀ k, k < n → record.getD k 0 = s.mem.byte (memNat s.mem v.toNat 4 + k)) ∧
        Completes (exec (.prtsd v) s) (Emits record s)) ∧
    (v.toNat + 4 ≤ s.mem.size → memNat s.mem v.toNat 4 < s.mem.size →
      (∀ k, memNat s.mem v.toNat 4 + k < s.mem.size → s.mem.byte (memNat s.mem v.toNat 4 + k) ≠ 0) →
      Faults (exec (.prtsd v) s) s .unterminatedString) ∧
    (s.numRegs ≤ v.toNat → Faults (exec (.prtsr v) s) s .outOfBounds) ∧
    (v.toNat < s.numRegs → s.mem.size ≤ (s.reg v.toNat).toNat → Faults (exec (.prtsr v) s) s .outOfBounds) ∧
    (∀ n, v.toNat < s.numRegs → (s.reg v.toNat).toNat + n < s.mem.size →
      s.mem.byte ((s.reg v.toNat).toNat + n) = 0 → (∀ k, k < n → s.mem.byte ((s.reg v.toNat).toNat + k) ≠ 0) →
      ∃ record : List Byte, record.length = n ∧
        (∀ k, k < n → record.getD k 0 = s.mem.byte ((s.reg v.toNat).toNat + k)) ∧
        Completes (exec (.prtsr v) s) (Emits record s)) ∧
    (v.toNat < s.numRegs → (s.reg v.toNat).toNat < s.mem.size →
      (∀ k, (s.reg v.toNat).toNat + k < s.mem.size → s.mem.byte ((s.reg v.toNat).toNat + k) ≠ 0) →
      Faults (exec (.prtsr v) s) s .unterminatedString)

/-- R265: HLT sets the status to Halted and changes nothing else, pc included; bits 23:0 are ignored; the words
0x59…, 0x5A… and 0x5B… are illegal; no cycle runs after it; a fetch out of bounds faults before a HLT is
decoded. -/
def Obligations.HaltInstruction : Prop :=
  ((encode .hlt).toNat = 0x58000000 ∧ (∀ w : Word, decodeWord w = .instr .hlt ↔ w.toNat / 2 ^ 24 = 0x58)) ∧
  (∀ w : Word, 0x59 ≤ w.toNat / 2 ^ 24 → w.toNat / 2 ^ 24 ≤ 0x5B → ∃ why, decodeWord w = .illegal why) ∧
  (∀ s : State, Completes (exec .hlt s) fun t => t = { s with status := .halted } ∧ ∀ u, step t ≠ .next u) ∧
  (∀ s : State, NextFetchFaults s)

/-- R266: every word with op = 0 decodes to IGL, which always raises IllegalInstruction with pc left at its address;
zeroed memory holds IGL words. -/
def Obligations.IllegalOpcodeInstruction : Prop :=
  (encode .igl = 0 ∧ (∀ w : Word, decodeWord w = .instr .igl ↔ w.toNat ≤ 0x03FFFFFF)) ∧
  (∀ s : State, Faults (exec .igl s) s .illegalInstruction) ∧
  (∀ s : State, s.status = .running → s.stopSampled = false →
    (s.pc.toNat + 4 ≤ s.mem.size → (∀ k, k < 4 → s.mem.byte (s.pc.toNat + k) = 0) →
      Faults (step s) s.afterSample .illegalInstruction) ∧
    (s.mem.size < s.pc.toNat + 4 → Faults (step s) s.afterSample .outOfBounds))

/-- 30_encoding.md section 7 (directives) and 95_test_vectors.md section 1 (S2, S3), about the reference assembler,
which reads lines already split into their parts (log 12): the entry of an assembled image is its data length,
it has one code word for each instruction statement, each word is one the decoder reads back and with its unused
bits zero, and the padding of .align n is shorter than 2^n and reaches a multiple of it. -/
def Obligations.AssembledImageLayout : Prop :=
  (∀ (source : List SourceLine) (img : Image), assemble source = .ok img →
    img.entry = BitVec.ofNat 32 img.data.length ∧
    img.code.length = (source.filter fun l =>
      match l.statement with
      | some (.instruction _ _) => true
      | _ => false).length ∧
    ∀ w ∈ img.code, ∃ i, decodeWord w = .instr i ∧ encode i = w) ∧
  (∀ cursor n : Nat, (alignPadding cursor n).length < 2 ^ n ∧
    (cursor + (alignPadding cursor n).length) % 2 ^ n = 0)

/-- A load at parameters in range (00_scope.md section 4) meets the invariant, whether or not the payload fits
(70_reset_and_hazards.md section 1), and holds the stop input it was given. The canonical form of memory in the
invariant is the model's (log 10), and so is the list that holds STOP (log 3). -/
def Obligations.LoadMeetsInvariant : Prop :=
  ∀ (img : Image) (ms nr : Nat) (stop : List Bool),
    (Config.NumRegsOK nr → Config.MemSizeOK ms → (State.load img ms nr stop).Inv) ∧
      (State.load img ms nr stop).stop = stop
end

