-- ==== Sys2Proof/Laws/Decode.lean ====
section
/-!
SUPPORT. The fields of packed words, and packed words as numbers (spec 30_encoding.md R82, R83, R94).
-/
namespace Sys2Proof

/-! ### Packed words as numbers (R94) -/

theorem packRV_toNat (op : BitVec 6) (md : BitVec 2) (a : BitVec 8) (v : BitVec 16) :
    (packRV op md a v).toNat = op.toNat * 67108864 + md.toNat * 16777216 + a.toNat * 65536 + v.toNat := by
  have h1 := md.isLt; have h2 := a.isLt; have h3 := v.isLt
  simp only [packRV, BitVec.toNat_append]
  rw [← Nat.shiftLeft_add_eq_or_of_lt h3, ← Nat.shiftLeft_add_eq_or_of_lt h2, ← Nat.shiftLeft_add_eq_or_of_lt h1]
  simp only [Nat.shiftLeft_eq]
  omega

theorem packA24_toNat (op : BitVec 6) (md : BitVec 2) (v : BitVec 24) :
    (packA24 op md v).toNat = op.toNat * 67108864 + md.toNat * 16777216 + v.toNat := by
  have h1 := md.isLt; have h3 := v.isLt
  simp only [packA24, BitVec.toNat_append]
  rw [← Nat.shiftLeft_add_eq_or_of_lt h3, ← Nat.shiftLeft_add_eq_or_of_lt h1]
  simp only [Nat.shiftLeft_eq]
  omega

theorem packRRR_toNat (op : BitVec 6) (md : BitVec 2) (a b c : BitVec 8) :
    (packRRR op md a b c).toNat =
      op.toNat * 67108864 + md.toNat * 16777216 + a.toNat * 65536 + b.toNat * 256 + c.toNat := by
  have h1 := md.isLt; have h2 := a.isLt; have h3 := b.isLt; have h4 := c.isLt
  simp only [packRRR, BitVec.toNat_append]
  rw [← Nat.shiftLeft_add_eq_or_of_lt h4, ← Nat.shiftLeft_add_eq_or_of_lt h3, ← Nat.shiftLeft_add_eq_or_of_lt h2,
    ← Nat.shiftLeft_add_eq_or_of_lt h1]
  simp only [Nat.shiftLeft_eq]
  omega

/-! ### The fields of a word as numbers (R82, R83) -/

theorem opField_toNat (w : Word) : (opField w).toNat = w.toNat / 67108864 := by
  have := w.isLt
  simp only [opField, BitVec.extractLsb'_toNat, Nat.shiftRight_eq_div_pow]
  omega

theorem mdField_toNat (w : Word) : (mdField w).toNat = w.toNat / 16777216 % 4 := by
  simp only [mdField, BitVec.extractLsb'_toNat, Nat.shiftRight_eq_div_pow]

theorem aField_toNat (w : Word) : (aField w).toNat = w.toNat / 65536 % 256 := by
  simp only [aField, BitVec.extractLsb'_toNat, Nat.shiftRight_eq_div_pow]

theorem bField_toNat (w : Word) : (bField w).toNat = w.toNat / 256 % 256 := by
  simp only [bField, BitVec.extractLsb'_toNat, Nat.shiftRight_eq_div_pow]

theorem cField_toNat (w : Word) : (cField w).toNat = w.toNat % 256 := by
  simp only [cField, BitVec.extractLsb'_toNat, Nat.shiftRight_eq_div_pow]
  omega

theorem v16Field_toNat (w : Word) : (v16Field w).toNat = w.toNat % 65536 := by
  simp only [v16Field, BitVec.extractLsb'_toNat, Nat.shiftRight_eq_div_pow]
  omega

theorem v24Field_toNat (w : Word) : (v24Field w).toNat = w.toNat % 16777216 := by
  simp only [v24Field, BitVec.extractLsb'_toNat, Nat.shiftRight_eq_div_pow]
  omega

/-! ### The fields of packed words -/

section
variable (op : BitVec 6) (md : BitVec 2) (a b c : BitVec 8) (v : BitVec 16) (u : BitVec 24)

@[simp] theorem opField_packRV : opField (packRV op md a v) = op := by
  apply BitVec.eq_of_toNat_eq
  have := md.isLt; have := a.isLt; have := v.isLt
  rw [opField_toNat, packRV_toNat]; omega

@[simp] theorem mdField_packRV : mdField (packRV op md a v) = md := by
  apply BitVec.eq_of_toNat_eq
  have := md.isLt; have := a.isLt; have := v.isLt
  rw [mdField_toNat, packRV_toNat]; omega

@[simp] theorem aField_packRV : aField (packRV op md a v) = a := by
  apply BitVec.eq_of_toNat_eq
  have := a.isLt; have := v.isLt
  rw [aField_toNat, packRV_toNat]; omega

@[simp] theorem v16Field_packRV : v16Field (packRV op md a v) = v := by
  apply BitVec.eq_of_toNat_eq
  have := v.isLt
  rw [v16Field_toNat, packRV_toNat]; omega

@[simp] theorem opField_packRRR : opField (packRRR op md a b c) = op := by
  apply BitVec.eq_of_toNat_eq
  have := md.isLt; have := a.isLt; have := b.isLt; have := c.isLt
  rw [opField_toNat, packRRR_toNat]; omega

@[simp] theorem mdField_packRRR : mdField (packRRR op md a b c) = md := by
  apply BitVec.eq_of_toNat_eq
  have := md.isLt; have := a.isLt; have := b.isLt; have := c.isLt
  rw [mdField_toNat, packRRR_toNat]; omega

@[simp] theorem aField_packRRR : aField (packRRR op md a b c) = a := by
  apply BitVec.eq_of_toNat_eq
  have := a.isLt; have := b.isLt; have := c.isLt
  rw [aField_toNat, packRRR_toNat]; omega

@[simp] theorem bField_packRRR : bField (packRRR op md a b c) = b := by
  apply BitVec.eq_of_toNat_eq
  have := b.isLt; have := c.isLt
  rw [bField_toNat, packRRR_toNat]; omega

@[simp] theorem cField_packRRR : cField (packRRR op md a b c) = c := by
  apply BitVec.eq_of_toNat_eq
  have := c.isLt
  rw [cField_toNat, packRRR_toNat]; omega

@[simp] theorem opField_packA24 : opField (packA24 op md u) = op := by
  apply BitVec.eq_of_toNat_eq
  have := md.isLt; have := u.isLt
  rw [opField_toNat, packA24_toNat]; omega

@[simp] theorem mdField_packA24 : mdField (packA24 op md u) = md := by
  apply BitVec.eq_of_toNat_eq
  have := md.isLt; have := u.isLt
  rw [mdField_toNat, packA24_toNat]; omega

@[simp] theorem v24Field_packA24 : v24Field (packA24 op md u) = u := by
  apply BitVec.eq_of_toNat_eq
  have := u.isLt
  rw [v24Field_toNat, packA24_toNat]; omega

end

/-! ### Choosing by mode -/

@[simp] theorem pickMode_mdI (i d r : Instr) : pickMode mdI i d r = .instr i := rfl
@[simp] theorem pickMode_mdD (i d r : Instr) : pickMode mdD i d r = .instr d := rfl
@[simp] theorem pickMode_mdR (i d r : Instr) : pickMode mdR i d r = .instr r := rfl
@[simp] theorem pickStoreMode_mdD (d r : Instr) : pickStoreMode mdD d r = .instr d := rfl
@[simp] theorem pickStoreMode_mdR (d r : Instr) : pickStoreMode mdR d r = .instr r := rfl
@[simp] theorem pickNoMode_mdI (i : Instr) : pickNoMode mdI i = .instr i := rfl

/-! ### The decoder, one equation per opcode (R90) -/

theorem decodeWord_op0 (w : Word) (h : (opField w).toNat = 0) : decodeWord w = .instr .igl := by
  simp only [decodeWord, h]

theorem decodeWord_op1 (w : Word) (h : (opField w).toNat = 1) :
    decodeWord w = pickMode (mdField w) (.ldi (aField w) (v16Field w)) (.ldd (aField w) (v16Field w)) (.ldr (aField w) (v16Field w)) := by
  simp only [decodeWord, h]

theorem decodeWord_op2 (w : Word) (h : (opField w).toNat = 2) :
    decodeWord w = pickMode (mdField w) (.ldhi (aField w) (v16Field w)) (.ldhd (aField w) (v16Field w)) (.ldhr (aField w) (v16Field w)) := by
  simp only [decodeWord, h]

theorem decodeWord_op3 (w : Word) (h : (opField w).toNat = 3) :
    decodeWord w = pickMode (mdField w) (.ldbi (aField w) (v16Field w)) (.ldbd (aField w) (v16Field w)) (.ldbr (aField w) (v16Field w)) := by
  simp only [decodeWord, h]

theorem decodeWord_op4 (w : Word) (h : (opField w).toNat = 4) :
    decodeWord w = pickStoreMode (mdField w) (.strd (aField w) (v16Field w)) (.strr (aField w) (v16Field w)) := by
  simp only [decodeWord, h]

theorem decodeWord_op5 (w : Word) (h : (opField w).toNat = 5) :
    decodeWord w = pickStoreMode (mdField w) (.strhd (aField w) (v16Field w)) (.strhr (aField w) (v16Field w)) := by
  simp only [decodeWord, h]

theorem decodeWord_op6 (w : Word) (h : (opField w).toNat = 6) :
    decodeWord w = pickStoreMode (mdField w) (.strbd (aField w) (v16Field w)) (.strbr (aField w) (v16Field w)) := by
  simp only [decodeWord, h]

theorem decodeWord_op7 (w : Word) (h : (opField w).toNat = 7) :
    decodeWord w = pickNoMode (mdField w) (.mov (aField w) (bField w)) := by
  simp only [decodeWord, h]

theorem decodeWord_op8 (w : Word) (h : (opField w).toNat = 8) :
    decodeWord w = pickMode (mdField w) (.addi (aField w) (v16Field w)) (.addd (aField w) (v16Field w)) (.addr (aField w) (bField w) (cField w)) := by
  simp only [decodeWord, h]

theorem decodeWord_op9 (w : Word) (h : (opField w).toNat = 9) :
    decodeWord w = pickMode (mdField w) (.subi (aField w) (v16Field w)) (.subd (aField w) (v16Field w)) (.subr (aField w) (bField w) (cField w)) := by
  simp only [decodeWord, h]

theorem decodeWord_op10 (w : Word) (h : (opField w).toNat = 10) :
    decodeWord w = pickMode (mdField w) (.muli (aField w) (v16Field w)) (.muld (aField w) (v16Field w)) (.mulr (aField w) (bField w) (cField w)) := by
  simp only [decodeWord, h]

theorem decodeWord_op11 (w : Word) (h : (opField w).toNat = 11) :
    decodeWord w = pickMode (mdField w) (.divi (aField w) (v16Field w)) (.divd (aField w) (v16Field w)) (.divr (aField w) (bField w) (cField w)) := by
  simp only [decodeWord, h]

theorem decodeWord_op12 (w : Word) (h : (opField w).toNat = 12) :
    decodeWord w = pickMode (mdField w) (.eqi (aField w) (v16Field w)) (.eqd (aField w) (v16Field w)) (.eqr (aField w) (v16Field w)) := by
  simp only [decodeWord, h]

theorem decodeWord_op13 (w : Word) (h : (opField w).toNat = 13) :
    decodeWord w = pickMode (mdField w) (.neqi (aField w) (v16Field w)) (.neqd (aField w) (v16Field w)) (.neqr (aField w) (v16Field w)) := by
  simp only [decodeWord, h]

theorem decodeWord_op14 (w : Word) (h : (opField w).toNat = 14) :
    decodeWord w = pickMode (mdField w) (.gti (aField w) (v16Field w)) (.gtd (aField w) (v16Field w)) (.gtr (aField w) (v16Field w)) := by
  simp only [decodeWord, h]

theorem decodeWord_op15 (w : Word) (h : (opField w).toNat = 15) :
    decodeWord w = pickMode (mdField w) (.gtei (aField w) (v16Field w)) (.gted (aField w) (v16Field w)) (.gter (aField w) (v16Field w)) := by
  simp only [decodeWord, h]

theorem decodeWord_op16 (w : Word) (h : (opField w).toNat = 16) :
    decodeWord w = pickMode (mdField w) (.lti (aField w) (v16Field w)) (.ltd (aField w) (v16Field w)) (.ltr (aField w) (v16Field w)) := by
  simp only [decodeWord, h]

theorem decodeWord_op17 (w : Word) (h : (opField w).toNat = 17) :
    decodeWord w = pickMode (mdField w) (.ltei (aField w) (v16Field w)) (.lted (aField w) (v16Field w)) (.lter (aField w) (v16Field w)) := by
  simp only [decodeWord, h]

theorem decodeWord_op18 (w : Word) (h : (opField w).toNat = 18) :
    decodeWord w = pickMode (mdField w) (.jmpi (v24Field w)) (.jmpd (v24Field w)) (.jmpr (v24Field w)) := by
  simp only [decodeWord, h]

theorem decodeWord_op19 (w : Word) (h : (opField w).toNat = 19) :
    decodeWord w = pickMode (mdField w) (.jmpei (v24Field w)) (.jmped (v24Field w)) (.jmper (v24Field w)) := by
  simp only [decodeWord, h]

theorem decodeWord_op20 (w : Word) (h : (opField w).toNat = 20) :
    decodeWord w = pickMode (mdField w) (.jmpnei (v24Field w)) (.jmpned (v24Field w)) (.jmpner (v24Field w)) := by
  simp only [decodeWord, h]

theorem decodeWord_op21 (w : Word) (h : (opField w).toNat = 21) :
    decodeWord w = pickMode (mdField w) (.prtsi (v24Field w)) (.prtsd (v24Field w)) (.prtsr (v24Field w)) := by
  simp only [decodeWord, h]

theorem decodeWord_op22 (w : Word) (h : (opField w).toNat = 22) : decodeWord w = pickNoMode (mdField w) .hlt := by
  simp only [decodeWord, h]

/-- No opcode from 23 up names an instruction (R91 b). -/
theorem decodeWord_unassigned (w : Word) (h : 23 ≤ (opField w).toNat) :
    decodeWord w = .illegal .unassignedOpcode := by
  have hlt := (opField w).isLt
  unfold decodeWord
  generalize (opField w).toNat = n at h hlt
  interval_cases n <;> rfl

/-! ### What choosing by mode can answer -/

/-- Three modes: the instruction of mode 0, 1 or 2, or none for mode 3 (R84). -/
theorem pickMode_cases (md : BitVec 2) (i d r : Instr) :
    (md.toNat = 0 ∧ pickMode md i d r = .instr i) ∨ (md.toNat = 1 ∧ pickMode md i d r = .instr d) ∨
      (md.toNat = 2 ∧ pickMode md i d r = .instr r) ∨ (md.toNat = 3 ∧ pickMode md i d r = .illegal .reservedMode) := by
  have h := md.isLt
  unfold pickMode
  generalize md.toNat = n at h
  interval_cases n <;> simp

/-- A store's modes: the instruction of mode 1 or 2, or none (R91 d). -/
theorem pickStoreMode_cases (md : BitVec 2) (d r : Instr) :
    (md.toNat = 1 ∧ pickStoreMode md d r = .instr d) ∨ (md.toNat = 2 ∧ pickStoreMode md d r = .instr r) ∨
      ((md.toNat = 0 ∨ md.toNat = 3) ∧ ∃ why, pickStoreMode md d r = .illegal why) := by
  have h := md.isLt
  unfold pickStoreMode
  generalize md.toNat = n at h
  interval_cases n <;> simp

/-- An opcode without suffix: the instruction of mode 0, or none (R91 e). -/
theorem pickNoMode_cases (md : BitVec 2) (i : Instr) :
    (md.toNat = 0 ∧ pickNoMode md i = .instr i) ∨ (md.toNat ≠ 0 ∧ ∃ why, pickNoMode md i = .illegal why) := by
  have h := md.isLt
  unfold pickNoMode
  generalize md.toNat = n at h
  interval_cases n <;> simp

end Sys2Proof
end

