-- ==== Sys2Proof/Laws/Memory.lean ====
section
/-!
SUPPORT. Laws of memory: what a byte reads after a write, that every write keeps the canonical form, and
what the string scan answers.
-/
namespace Sys2Proof.Machine

/-! ### One cell -/

theorem readCell_eraseCell_same (cs : List Host.Cell) (a : Nat) : readCell (eraseCell cs a) a = Memory.unlisted := by
  induction cs with
  | nil => rfl
  | cons c cs ih =>
    by_cases h : a = c.1
    · simpa [eraseCell, h] using h ▸ ih
    · simp [eraseCell, readCell, h, ih]

theorem readCell_eraseCell_ne (cs : List Host.Cell) {a b : Nat} (h : b ≠ a) :
    readCell (eraseCell cs a) b = readCell cs b := by
  induction cs with
  | nil => rfl
  | cons c cs ih =>
    by_cases ha : a = c.1
    · have hb : b ≠ c.1 := fun e => h (e.trans ha.symm)
      simp [eraseCell, readCell, ← ha, h, ih]
    · simp [eraseCell, readCell, ha, ih]

theorem readCell_insertCell (cs : List Host.Cell) (a b : Nat) (v : Byte) :
    readCell (insertCell cs a v) b = if b = a then v else readCell cs b := by
  induction cs with
  | nil => simp [insertCell, readCell]
  | cons c cs ih =>
    unfold insertCell
    split
    · simp [readCell]
    · split
      · next h => subst h; by_cases hb : b = c.1 <;> simp [readCell, hb]
      · next h => by_cases hb : b = c.1
                  · have : b ≠ a := fun e => h (e ▸ hb)
                    simp [readCell, ← hb, this]
                  · simp [readCell, hb, ih]

/-- Reading after writing one byte: the written address reads the new value, every other its old one. -/
theorem readCell_writeCell (cs : List Host.Cell) (a b : Nat) (v : Byte) :
    readCell (writeCell cs a v) b = if b = a then v else readCell cs b := by
  unfold writeCell
  split
  · next h =>
    split
    · next hb => subst hb; rw [readCell_eraseCell_same, h]
    · next hb => exact readCell_eraseCell_ne cs hb
  · exact readCell_insertCell cs a b v

/-! ### Bytes -/

@[simp] theorem Memory.setByte_size (m : Memory) (a : Nat) (v : Byte) : (m.setByte a v).size = m.size := rfl

theorem Memory.byte_setByte (m : Memory) (a b : Nat) (v : Byte) :
    (m.setByte a v).byte b = if b = a then v else m.byte b :=
  readCell_writeCell m.cells a b v

@[simp] theorem Memory.writeBytes_size (m : Memory) (a : Nat) (bs : List Byte) : (m.writeBytes a bs).size = m.size := by
  induction bs generalizing m a with
  | nil => rfl
  | cons b bs ih => simp [Memory.writeBytes, ih]

/-- What a byte reads after bytes are written: inside the range the written byte, outside it the old one. -/
theorem Memory.byte_writeBytes (m : Memory) (a b : Nat) (bs : List Byte) :
    (m.writeBytes a bs).byte b =
      if a ≤ b ∧ b < a + bs.length then bs.getD (b - a) 0 else m.byte b := by
  induction bs generalizing m a with
  | nil =>
    have : ¬ (a ≤ b ∧ b < a) := by omega
    simp [Memory.writeBytes, this]
  | cons v vs ih =>
    rw [Memory.writeBytes, ih]
    by_cases h1 : a + 1 ≤ b ∧ b < a + 1 + vs.length
    · have h2 : a ≤ b ∧ b < a + (v :: vs).length := by simp; omega
      obtain ⟨k, hk⟩ : ∃ k, b - a = k + 1 := ⟨b - a - 1, by omega⟩
      rw [if_pos h1, if_pos h2, hk, List.getD_cons_succ]
      congr 1; omega
    · rw [if_neg h1, Memory.byte_setByte]
      by_cases h3 : b = a
      · subst h3; simp
      · have h4 : ¬ (a ≤ b ∧ b < a + (v :: vs).length) := by simp; omega
        rw [if_neg h3, if_neg h4]

@[simp] theorem Memory.store_size (m : Memory) (wd : Width) (a : Nat) (v : Word) : (m.store wd a v).size = m.size :=
  Memory.writeBytes_size _ _ _

@[simp] theorem storeBytes_length (wd : Width) (v : Word) : (storeBytes wd v).length = widthBytes wd := by
  cases wd <;> rfl

/-- A store leaves every byte outside the stored ones as it was (R54). -/
theorem Memory.byte_store_outside (m : Memory) (wd : Width) (a b : Nat) (v : Word)
    (h : b < a ∨ a + widthBytes wd ≤ b) : (m.store wd a v).byte b = m.byte b := by
  rw [Memory.store, Memory.byte_writeBytes, storeBytes_length, if_neg (by omega)]

/-- A store's own bytes read what was stored (R54). -/
theorem Memory.byte_store_inside (m : Memory) (wd : Width) (a k : Nat) (v : Word) (h : k < widthBytes wd) :
    (m.store wd a v).byte (a + k) = (storeBytes wd v).getD k 0 := by
  rw [Memory.store, Memory.byte_writeBytes, storeBytes_length, if_pos (by omega)]
  congr 1; omega

/-! ### The canonical form -/

theorem cellsWf_lower {lo lo' size : Nat} {cs : List Host.Cell} (h : cellsWf lo size cs = true) (hl : lo' ≤ lo) :
    cellsWf lo' size cs = true := by
  cases cs with
  | nil => rfl
  | cons c cs =>
    simp only [cellsWf, Bool.and_eq_true, decide_eq_true_eq] at *
    exact ⟨⟨⟨by omega, h.1.1.2⟩, h.1.2⟩, h.2⟩

theorem eraseCell_wf {lo size : Nat} {cs : List Host.Cell} (a : Nat) (h : cellsWf lo size cs = true) :
    cellsWf lo size (eraseCell cs a) = true := by
  induction cs generalizing lo with
  | nil => rfl
  | cons c cs ih =>
    simp only [cellsWf, Bool.and_eq_true, decide_eq_true_eq] at h
    unfold eraseCell
    split
    · exact cellsWf_lower (ih h.2) (by omega)
    · simp only [cellsWf, Bool.and_eq_true, decide_eq_true_eq]
      exact ⟨h.1, ih h.2⟩

theorem insertCell_wf {lo size : Nat} {cs : List Host.Cell} {a : Nat} {v : Byte} (h : cellsWf lo size cs = true)
    (hlo : lo ≤ a) (hs : a < size) (hv : v ≠ Memory.unlisted) : cellsWf lo size (insertCell cs a v) = true := by
  induction cs generalizing lo with
  | nil => simp [insertCell, cellsWf, hlo, hs, hv]
  | cons c cs ih =>
    simp only [cellsWf, Bool.and_eq_true, decide_eq_true_eq] at h
    obtain ⟨⟨⟨h1, h2⟩, h3⟩, h4⟩ := h
    unfold insertCell
    split
    · simp only [cellsWf, Bool.and_eq_true, decide_eq_true_eq]
      exact ⟨⟨⟨hlo, hs⟩, hv⟩, ⟨⟨by omega, h2⟩, h3⟩, h4⟩
    · split
      · next heq =>
        simp only [cellsWf, Bool.and_eq_true, decide_eq_true_eq]
        exact ⟨⟨⟨hlo, hs⟩, hv⟩, heq ▸ h4⟩
      · simp only [cellsWf, Bool.and_eq_true, decide_eq_true_eq]
        exact ⟨⟨⟨h1, h2⟩, h3⟩, ih h4 (by omega)⟩

/-- Writing one byte of memory keeps the canonical form. -/
theorem Memory.setByte_wf {m : Memory} (a : Nat) (v : Byte) (h : m.wf = true) (ha : a < m.size) :
    (m.setByte a v).wf = true := by
  unfold Memory.wf Memory.setByte writeCell at *
  split
  · exact eraseCell_wf a h
  · next hv => exact insertCell_wf h (Nat.zero_le a) ha hv

/-- Writing bytes that lie in memory keeps the canonical form. -/
theorem Memory.writeBytes_wf {m : Memory} (a : Nat) (bs : List Byte) (h : m.wf = true) (ha : a + bs.length ≤ m.size) :
    (m.writeBytes a bs).wf = true := by
  induction bs generalizing m a with
  | nil => exact h
  | cons v vs ih =>
    simp only [List.length_cons] at ha
    exact ih (a + 1) (Memory.setByte_wf a v h (by omega)) (by simp; omega)

/-- A store that is in bounds keeps the canonical form. -/
theorem Memory.store_wf {m : Memory} {wd : Width} {a : Nat} (v : Word) (h : m.wf = true)
    (hb : m.inBounds a (widthBytes wd) = true) : (m.store wd a v).wf = true :=
  Memory.writeBytes_wf a _ h (by simpa [Memory.inBounds] using hb)

/-! ### Bounds and loads -/

@[simp] theorem Memory.inBounds_iff (m : Memory) (a n : Nat) : m.inBounds a n = true ↔ a + n ≤ m.size := by
  simp [Memory.inBounds]

/-- The first byte of a word is its most significant: the word of four bytes as a number (R51, R53). -/
theorem wordOfBytes_toNat (b0 b1 b2 b3 : Byte) :
    (wordOfBytes b0 b1 b2 b3).toNat =
      b0.toNat * 16777216 + b1.toNat * 65536 + b2.toNat * 256 + b3.toNat := by
  have h0 := b0.isLt; have h1 := b1.isLt; have h2 := b2.isLt; have h3 := b3.isLt
  simp only [wordOfBytes, BitVec.toNat_append]
  rw [← Nat.shiftLeft_add_eq_or_of_lt h3, ← Nat.shiftLeft_add_eq_or_of_lt h2, ← Nat.shiftLeft_add_eq_or_of_lt h1]
  simp only [Nat.shiftLeft_eq]
  omega

/-- A word load as a number (R53). -/
theorem Memory.load_word_toNat (m : Memory) (a : Nat) :
    (m.load .word a).toNat =
      (m.byte a).toNat * 16777216 + (m.byte (a + 1)).toNat * 65536 + (m.byte (a + 2)).toNat * 256
        + (m.byte (a + 3)).toNat :=
  wordOfBytes_toNat _ _ _ _

/-- A half-word load as a number (R53, R160). -/
theorem Memory.load_half_toNat (m : Memory) (a : Nat) :
    (m.load .half a).toNat = (m.byte a).toNat * 256 + (m.byte (a + 1)).toNat := by
  have h0 := (m.byte a).isLt; have h1 := (m.byte (a + 1)).isLt
  simp only [Memory.load, BitVec.truncate_eq_setWidth, BitVec.toNat_setWidth, BitVec.toNat_append]
  rw [← Nat.shiftLeft_add_eq_or_of_lt h1]
  simp only [Nat.shiftLeft_eq]
  omega

/-- A byte load as a number (R53, R160). -/
theorem Memory.load_byte_toNat (m : Memory) (a : Nat) : (m.load .byte a).toNat = (m.byte a).toNat := by
  have h0 := (m.byte a).isLt
  simp only [Memory.load, BitVec.truncate_eq_setWidth, BitVec.toNat_setWidth]
  omega

/-- Splitting a word into bytes and joining them gives the word back (R51). -/
theorem wordOfBytes_bytesOfWord (w : Word) :
    wordOfBytes (w.extractLsb' 24 8) (w.extractLsb' 16 8) (w.extractLsb' 8 8) (w.extractLsb' 0 8) = w := by
  apply BitVec.eq_of_toNat_eq
  have h := w.isLt
  simp only [wordOfBytes_toNat, BitVec.extractLsb'_toNat, Nat.shiftRight_eq_div_pow]
  omega

/-! ### The string scan (R260) -/

/-- What a scan of `fuel` bytes from `k` finds: the record before the first zero byte. -/
theorem Memory.scanFrom_eq_some (m : Memory) (k fuel : Nat) (r : List Byte) :
    m.scanFrom k fuel = some r ↔
      r.length < fuel ∧ m.byte (k + r.length) = 0 ∧ ∀ i, i < r.length → m.byte (k + i) ≠ 0 ∧ r.getD i 0 = m.byte (k + i) := by
  induction fuel generalizing k r with
  | zero => simp [Memory.scanFrom]
  | succ fuel ih =>
    unfold Memory.scanFrom
    split
    · next hz =>
      constructor
      · intro h; cases h; exact ⟨by simp, by simpa using hz, by simp⟩
      · rintro ⟨-, -, h3⟩
        cases r with
        | nil => rfl
        | cons x xs => exact absurd hz (h3 0 (by simp)).1
    · next hz =>
      cases r with
      | nil =>
        constructor
        · intro h
          cases hs : m.scanFrom (k + 1) fuel <;> simp [hs] at h
        · rintro ⟨-, h2, -⟩; exact absurd h2 hz
      | cons x xs =>
        have key : (Option.map (fun t => m.byte k :: t) (m.scanFrom (k + 1) fuel) = some (x :: xs)) ↔
            (m.byte k = x ∧ m.scanFrom (k + 1) fuel = some xs) := by
          cases m.scanFrom (k + 1) fuel with
          | none => simp
          | some y => simp
        rw [key, ih]
        constructor
        · rintro ⟨rfl, h1, h2, h3⟩
          refine ⟨by simpa using h1, ?_, ?_⟩
          · have : k + (m.byte k :: xs).length = k + 1 + xs.length := by simp; omega
            rw [this]; exact h2
          · intro i hi
            cases i with
            | zero => exact ⟨hz, by simp⟩
            | succ i =>
              have := h3 i (by simpa using hi)
              rw [show k + 1 + i = k + (i + 1) by omega] at this
              exact ⟨this.1, by simpa using this.2⟩
        · rintro ⟨h1, h2, h3⟩
          refine ⟨by simpa using (h3 0 (by simp)).2.symm, by simpa using h1, ?_, ?_⟩
          · have : k + (x :: xs).length = k + 1 + xs.length := by simp; omega
            rw [← this]; exact h2
          · intro i hi
            have := h3 (i + 1) (by simpa using hi)
            rw [show k + 1 + i = k + (i + 1) by omega]
            exact ⟨this.1, by simpa using this.2⟩

/-- When a scan finds no record: no byte it reads is zero. -/
theorem Memory.scanFrom_eq_none (m : Memory) (k fuel : Nat) :
    m.scanFrom k fuel = none ↔ ∀ i, i < fuel → m.byte (k + i) ≠ 0 := by
  induction fuel generalizing k with
  | zero => simp [Memory.scanFrom]
  | succ fuel ih =>
    unfold Memory.scanFrom
    split
    · next hz => simpa using ⟨0, by omega, by simpa using hz⟩
    · next hz =>
      rw [Option.map_eq_none_iff, ih]
      constructor
      · intro h i hi
        cases i with
        | zero => simpa using hz
        | succ i => have := h i (by omega); rwa [show k + 1 + i = k + (i + 1) by omega] at this
      · intro h i hi
        have := h (i + 1) (by omega); rwa [show k + (i + 1) = k + 1 + i by omega] at this

end Sys2Proof.Machine
end

