-- ==== Sys2Proof/Laws/State.lean ====
section
/-!
SUPPORT. One lemma per field per update of the state, true by rfl, so that no later proof unfolds a
record update; and the register file's read-after-write laws.
-/
namespace Sys2Proof.Machine

@[simp] theorem State.setReg_regs (s : State) (i : Nat) (v : Word) : (s.setReg i v).regs = s.regs.set i v := rfl
@[simp] theorem State.setReg_pc (s : State) (i : Nat) (v : Word) : (s.setReg i v).pc = s.pc := rfl
@[simp] theorem State.setReg_flag (s : State) (i : Nat) (v : Word) : (s.setReg i v).flag = s.flag := rfl
@[simp] theorem State.setReg_mem (s : State) (i : Nat) (v : Word) : (s.setReg i v).mem = s.mem := rfl
@[simp] theorem State.setReg_status (s : State) (i : Nat) (v : Word) : (s.setReg i v).status = s.status := rfl
@[simp] theorem State.setReg_reason (s : State) (i : Nat) (v : Word) : (s.setReg i v).reason = s.reason := rfl
@[simp] theorem State.setReg_out (s : State) (i : Nat) (v : Word) : (s.setReg i v).out = s.out := rfl
@[simp] theorem State.setReg_stop (s : State) (i : Nat) (v : Word) : (s.setReg i v).stop = s.stop := rfl

@[simp] theorem State.advance_regs (s : State) : s.advance.regs = s.regs := rfl
@[simp] theorem State.advance_pc (s : State) : s.advance.pc = s.pc + 4 := rfl
@[simp] theorem State.advance_flag (s : State) : s.advance.flag = s.flag := rfl
@[simp] theorem State.advance_mem (s : State) : s.advance.mem = s.mem := rfl
@[simp] theorem State.advance_status (s : State) : s.advance.status = s.status := rfl
@[simp] theorem State.advance_reason (s : State) : s.advance.reason = s.reason := rfl
@[simp] theorem State.advance_out (s : State) : s.advance.out = s.out := rfl
@[simp] theorem State.advance_stop (s : State) : s.advance.stop = s.stop := rfl
@[simp] theorem State.advance_numRegs (s : State) : s.advance.numRegs = s.numRegs := rfl
@[simp] theorem State.advance_reg (s : State) (k : Nat) : s.advance.reg k = s.reg k := rfl

@[simp] theorem State.jumpTo_regs (s : State) (t : Word) : (s.jumpTo t).regs = s.regs := rfl
@[simp] theorem State.jumpTo_pc (s : State) (t : Word) : (s.jumpTo t).pc = t := rfl
@[simp] theorem State.jumpTo_flag (s : State) (t : Word) : (s.jumpTo t).flag = s.flag := rfl
@[simp] theorem State.jumpTo_mem (s : State) (t : Word) : (s.jumpTo t).mem = s.mem := rfl
@[simp] theorem State.jumpTo_status (s : State) (t : Word) : (s.jumpTo t).status = s.status := rfl
@[simp] theorem State.jumpTo_reason (s : State) (t : Word) : (s.jumpTo t).reason = s.reason := rfl
@[simp] theorem State.jumpTo_out (s : State) (t : Word) : (s.jumpTo t).out = s.out := rfl
@[simp] theorem State.jumpTo_stop (s : State) (t : Word) : (s.jumpTo t).stop = s.stop := rfl
@[simp] theorem State.jumpTo_numRegs (s : State) (t : Word) : (s.jumpTo t).numRegs = s.numRegs := rfl
@[simp] theorem State.jumpTo_reg (s : State) (t : Word) (k : Nat) : (s.jumpTo t).reg k = s.reg k := rfl

@[simp] theorem State.setFlag_regs (s : State) (b : Bool) : (s.setFlag b).regs = s.regs := rfl
@[simp] theorem State.setFlag_pc (s : State) (b : Bool) : (s.setFlag b).pc = s.pc := rfl
@[simp] theorem State.setFlag_flag (s : State) (b : Bool) : (s.setFlag b).flag = b := rfl
@[simp] theorem State.setFlag_mem (s : State) (b : Bool) : (s.setFlag b).mem = s.mem := rfl
@[simp] theorem State.setFlag_status (s : State) (b : Bool) : (s.setFlag b).status = s.status := rfl
@[simp] theorem State.setFlag_reason (s : State) (b : Bool) : (s.setFlag b).reason = s.reason := rfl
@[simp] theorem State.setFlag_out (s : State) (b : Bool) : (s.setFlag b).out = s.out := rfl
@[simp] theorem State.setFlag_stop (s : State) (b : Bool) : (s.setFlag b).stop = s.stop := rfl
@[simp] theorem State.setFlag_numRegs (s : State) (b : Bool) : (s.setFlag b).numRegs = s.numRegs := rfl
@[simp] theorem State.setFlag_reg (s : State) (b : Bool) (k : Nat) : (s.setFlag b).reg k = s.reg k := rfl

@[simp] theorem State.setMem_regs (s : State) (m : Memory) : (s.setMem m).regs = s.regs := rfl
@[simp] theorem State.setMem_pc (s : State) (m : Memory) : (s.setMem m).pc = s.pc := rfl
@[simp] theorem State.setMem_flag (s : State) (m : Memory) : (s.setMem m).flag = s.flag := rfl
@[simp] theorem State.setMem_mem (s : State) (m : Memory) : (s.setMem m).mem = m := rfl
@[simp] theorem State.setMem_status (s : State) (m : Memory) : (s.setMem m).status = s.status := rfl
@[simp] theorem State.setMem_reason (s : State) (m : Memory) : (s.setMem m).reason = s.reason := rfl
@[simp] theorem State.setMem_out (s : State) (m : Memory) : (s.setMem m).out = s.out := rfl
@[simp] theorem State.setMem_stop (s : State) (m : Memory) : (s.setMem m).stop = s.stop := rfl
@[simp] theorem State.setMem_numRegs (s : State) (m : Memory) : (s.setMem m).numRegs = s.numRegs := rfl
@[simp] theorem State.setMem_reg (s : State) (m : Memory) (k : Nat) : (s.setMem m).reg k = s.reg k := rfl

@[simp] theorem State.emit_regs (s : State) (r : List Byte) : (s.emit r).regs = s.regs := rfl
@[simp] theorem State.emit_pc (s : State) (r : List Byte) : (s.emit r).pc = s.pc := rfl
@[simp] theorem State.emit_flag (s : State) (r : List Byte) : (s.emit r).flag = s.flag := rfl
@[simp] theorem State.emit_mem (s : State) (r : List Byte) : (s.emit r).mem = s.mem := rfl
@[simp] theorem State.emit_status (s : State) (r : List Byte) : (s.emit r).status = s.status := rfl
@[simp] theorem State.emit_reason (s : State) (r : List Byte) : (s.emit r).reason = s.reason := rfl
@[simp] theorem State.emit_out (s : State) (r : List Byte) : (s.emit r).out = s.out ++ [r] := rfl
@[simp] theorem State.emit_stop (s : State) (r : List Byte) : (s.emit r).stop = s.stop := rfl
@[simp] theorem State.emit_numRegs (s : State) (r : List Byte) : (s.emit r).numRegs = s.numRegs := rfl
@[simp] theorem State.emit_reg (s : State) (r : List Byte) (k : Nat) : (s.emit r).reg k = s.reg k := rfl

@[simp] theorem State.halt_regs (s : State) : s.halt.regs = s.regs := rfl
@[simp] theorem State.halt_pc (s : State) : s.halt.pc = s.pc := rfl
@[simp] theorem State.halt_flag (s : State) : s.halt.flag = s.flag := rfl
@[simp] theorem State.halt_mem (s : State) : s.halt.mem = s.mem := rfl
@[simp] theorem State.halt_status (s : State) : s.halt.status = .halted := rfl
@[simp] theorem State.halt_reason (s : State) : s.halt.reason = s.reason := rfl
@[simp] theorem State.halt_out (s : State) : s.halt.out = s.out := rfl
@[simp] theorem State.halt_stop (s : State) : s.halt.stop = s.stop := rfl
@[simp] theorem State.halt_numRegs (s : State) : s.halt.numRegs = s.numRegs := rfl
@[simp] theorem State.halt_reg (s : State) (k : Nat) : s.halt.reg k = s.reg k := rfl

@[simp] theorem State.cancel_regs (s : State) : s.cancel.regs = s.regs := rfl
@[simp] theorem State.cancel_pc (s : State) : s.cancel.pc = s.pc := rfl
@[simp] theorem State.cancel_flag (s : State) : s.cancel.flag = s.flag := rfl
@[simp] theorem State.cancel_mem (s : State) : s.cancel.mem = s.mem := rfl
@[simp] theorem State.cancel_status (s : State) : s.cancel.status = .cancelled := rfl
@[simp] theorem State.cancel_reason (s : State) : s.cancel.reason = s.reason := rfl
@[simp] theorem State.cancel_out (s : State) : s.cancel.out = s.out := rfl
@[simp] theorem State.cancel_stop (s : State) : s.cancel.stop = s.stop := rfl
@[simp] theorem State.cancel_numRegs (s : State) : s.cancel.numRegs = s.numRegs := rfl
@[simp] theorem State.cancel_reg (s : State) (k : Nat) : s.cancel.reg k = s.reg k := rfl

@[simp] theorem State.raise_regs (s : State) (r : Reason) : (s.raise r).regs = s.regs := rfl
@[simp] theorem State.raise_pc (s : State) (r : Reason) : (s.raise r).pc = s.pc := rfl
@[simp] theorem State.raise_flag (s : State) (r : Reason) : (s.raise r).flag = s.flag := rfl
@[simp] theorem State.raise_mem (s : State) (r : Reason) : (s.raise r).mem = s.mem := rfl
@[simp] theorem State.raise_status (s : State) (r : Reason) : (s.raise r).status = .faulted := rfl
@[simp] theorem State.raise_reason (s : State) (r : Reason) : (s.raise r).reason = r := rfl
@[simp] theorem State.raise_out (s : State) (r : Reason) : (s.raise r).out = s.out := rfl
@[simp] theorem State.raise_stop (s : State) (r : Reason) : (s.raise r).stop = s.stop := rfl
@[simp] theorem State.raise_numRegs (s : State) (r : Reason) : (s.raise r).numRegs = s.numRegs := rfl
@[simp] theorem State.raise_reg (s : State) (r : Reason) (k : Nat) : (s.raise r).reg k = s.reg k := rfl

@[simp] theorem State.afterSample_regs (s : State) : s.afterSample.regs = s.regs := rfl
@[simp] theorem State.afterSample_pc (s : State) : s.afterSample.pc = s.pc := rfl
@[simp] theorem State.afterSample_flag (s : State) : s.afterSample.flag = s.flag := rfl
@[simp] theorem State.afterSample_mem (s : State) : s.afterSample.mem = s.mem := rfl
@[simp] theorem State.afterSample_status (s : State) : s.afterSample.status = s.status := rfl
@[simp] theorem State.afterSample_reason (s : State) : s.afterSample.reason = s.reason := rfl
@[simp] theorem State.afterSample_out (s : State) : s.afterSample.out = s.out := rfl
@[simp] theorem State.afterSample_stop (s : State) : s.afterSample.stop = s.stop.tail := rfl
@[simp] theorem State.afterSample_numRegs (s : State) : s.afterSample.numRegs = s.numRegs := rfl
@[simp] theorem State.afterSample_reg (s : State) (k : Nat) : s.afterSample.reg k = s.reg k := rfl

@[simp] theorem State.setReg_numRegs (s : State) (i : Nat) (v : Word) : (s.setReg i v).numRegs = s.numRegs := by
  simp [State.numRegs]

/-- A register reads the value written to it. -/
theorem State.setReg_reg_same (s : State) (i : Nat) (v : Word) (h : i < s.numRegs) : (s.setReg i v).reg i = v := by
  simp [State.reg, State.numRegs] at *
  simp [h]

/-- Writing a register leaves every other register as it was. -/
theorem State.setReg_reg_ne (s : State) (i k : Nat) (v : Word) (h : k ≠ i) : (s.setReg i v).reg k = s.reg k := by
  simp [State.reg, List.getElem?_set_ne (Ne.symm h)]

/-- The register check, as an inequality. -/
@[simp] theorem State.regOK_iff (s : State) (i : Nat) : s.regOK i = true ↔ i < s.numRegs := by
  simp [State.regOK]

/-- Reset is construction from the empty image at the reference parameters (R30, R301, R8; logs 1, 2). -/
theorem State.reset_eq_load :
    State.reset = State.load ⟨[], [], [], 0⟩ Config.referenceMemSize Config.referenceNumRegs [] := by
  decide

end Sys2Proof.Machine
end

