-- ==== Sys2Proof/Laws/Ops.lean ====
section
/-!
SUPPORT. One specification lemma per shared operation: everything it can answer, so that later proofs cite it
instead of unfolding it; and the two equations (check passed, check failed) by which a proof runs it.
-/
namespace Sys2Proof.Machine

/-! ### The register check (R131) -/

/-- The register check lets what follows run, or raises OutOfBounds. -/
theorem checkRegs_cases (idx : List Nat) (s : State) (k : Result) :
    ((∀ i ∈ idx, i < s.numRegs) ∧ checkRegs idx s k = k) ∨
      ((∃ i ∈ idx, s.numRegs ≤ i) ∧ checkRegs idx s k = .next (s.raise .outOfBounds)) := by
  unfold checkRegs
  split
  · next h => exact .inl ⟨by simpa using h, rfl⟩
  · next h => exact .inr ⟨by simpa using h, rfl⟩

theorem checkRegs_pass {idx : List Nat} {s : State} (k : Result) (h : ∀ i ∈ idx, i < s.numRegs) :
    checkRegs idx s k = k := by
  unfold checkRegs; rw [if_pos (by simpa using h)]

theorem checkRegs_fail {idx : List Nat} {s : State} (k : Result) (h : ∃ i ∈ idx, s.numRegs ≤ i) :
    checkRegs idx s k = .next (s.raise .outOfBounds) := by
  unfold checkRegs; rw [if_neg (by simpa using h)]

/-! ### Reads (R52, R53) -/

/-- A checked read gives its value to what follows, or raises OutOfBounds. -/
theorem withRead_cases (wd : Width) (a : Word) (s : State) (k : Word → Result) :
    (a.toNat + widthBytes wd ≤ s.mem.size ∧ withRead wd a s k = k (s.mem.load wd a.toNat)) ∨
      (s.mem.size < a.toNat + widthBytes wd ∧ withRead wd a s k = .next (s.raise .outOfBounds)) := by
  unfold withRead
  split
  · next h => exact .inl ⟨by simpa using h, rfl⟩
  · next h => exact .inr ⟨by simpa using h, rfl⟩

theorem withRead_pass {wd : Width} {a : Word} {s : State} (k : Word → Result)
    (h : a.toNat + widthBytes wd ≤ s.mem.size) : withRead wd a s k = k (s.mem.load wd a.toNat) := by
  unfold withRead; rw [if_pos (by simpa using h)]

theorem withRead_fail {wd : Width} {a : Word} {s : State} (k : Word → Result)
    (h : s.mem.size < a.toNat + widthBytes wd) : withRead wd a s k = .next (s.raise .outOfBounds) := by
  unfold withRead; rw [if_neg (by simpa using h)]

/-! ### Writes (R52, R54) -/

/-- A checked store writes its bytes and advances pc, or raises OutOfBounds and writes nothing. -/
theorem storeAndAdvance_cases (wd : Width) (a v : Word) (s : State) :
    (a.toNat + widthBytes wd ≤ s.mem.size ∧
        storeAndAdvance wd a v s = .next (s.setMem (s.mem.store wd a.toNat v)).advance) ∨
      (s.mem.size < a.toNat + widthBytes wd ∧ storeAndAdvance wd a v s = .next (s.raise .outOfBounds)) := by
  unfold storeAndAdvance
  split
  · next h => exact .inl ⟨by simpa using h, rfl⟩
  · next h => exact .inr ⟨by simpa using h, rfl⟩

/-! ### Operands (R133, R135) -/

/-- A value operand gives one value to what follows, or raises OutOfBounds. -/
theorem withValRV_cases (m : Mode) (v : BitVec 16) (s : State) (k : Word → Result) :
    (∃ b, withValRV m v s k = k b) ∨ withValRV m v s k = .next (s.raise .outOfBounds) := by
  cases m with
  | immediate => exact .inl ⟨_, rfl⟩
  | register => exact .inl ⟨_, rfl⟩
  | direct =>
    obtain ⟨-, h⟩ | ⟨-, h⟩ := withRead_cases .word (zext16 v) s k
    · exact .inl ⟨_, h⟩
    · exact .inr h

/-- A target gives one address to what follows, or raises OutOfBounds. -/
theorem withTarget24_cases (m : Mode) (v : BitVec 24) (s : State) (k : Word → Result) :
    (∃ t, withTarget24 m v s k = k t) ∨ withTarget24 m v s k = .next (s.raise .outOfBounds) := by
  cases m with
  | immediate => exact .inl ⟨_, rfl⟩
  | register => exact .inl ⟨_, rfl⟩
  | direct =>
    obtain ⟨-, h⟩ | ⟨-, h⟩ := withRead_cases .word (zext24 v) s k
    · exact .inl ⟨_, h⟩
    · exact .inr h

@[simp] theorem zext16_toNat (v : BitVec 16) : (zext16 v).toNat = v.toNat := by
  have := v.isLt; simp [zext16]; omega

@[simp] theorem zext24_toNat (v : BitVec 24) : (zext24 v).toNat = v.toNat := by
  have := v.isLt; simp [zext24]; omega

/-! ### Arithmetic (R190) -/

/-- The end of an arithmetic instruction writes its result, or raises DivisionByZero for DIV by zero. -/
theorem aluAndAdvance_cases (f : AluOp) (rd : Nat) (a b : Word) (s : State) :
    (¬ (f = .div ∧ b.toNat = 0) ∧ aluAndAdvance f rd a b s = .next (s.setReg rd (aluResult f a b)).advance) ∨
      (f = .div ∧ b.toNat = 0 ∧ aluAndAdvance f rd a b s = .next (s.raise .divisionByZero)) := by
  unfold aluAndAdvance
  split
  · next h => cases f <;> simp [aluFaults] at h; exact .inr ⟨rfl, h, rfl⟩
  · next h => cases f <;> simp [aluFaults] at h <;> exact .inl ⟨by simp_all, rfl⟩

@[simp] theorem aluResult_add (a b : Word) : aluResult .add a b = a + b := by
  simp [aluResult, BitVec.ofNat_add]

@[simp] theorem aluResult_sub (a b : Word) : aluResult .sub a b = a - b := by
  apply BitVec.eq_of_toNat_eq
  have := a.isLt; have := b.isLt
  simp only [aluResult, BitVec.toNat_ofInt, BitVec.toNat_sub]
  omega

@[simp] theorem aluResult_mul (a b : Word) : aluResult .mul a b = a * b := by
  simp [aluResult, BitVec.ofNat_mul]

@[simp] theorem aluResult_div (a b : Word) : aluResult .div a b = a / b := by
  apply BitVec.eq_of_toNat_eq
  have h : a.toNat / b.toNat < 4294967296 := Nat.lt_of_le_of_lt (Nat.div_le_self _ _) a.isLt
  simp only [aluResult, BitVec.toNat_ofNat, BitVec.toNat_udiv]
  exact Nat.mod_eq_of_lt h

/-! ### Jumps (R240) -/

/-- A jump that is not a register form sets pc to one target, or falls through untaken, or raises OutOfBounds
for a pointer out of bounds. -/
theorem jumpTarget_cases (c : Cond) (m : Mode) (v : BitVec 24) (s : State) :
    (condHolds c s.flag = false ∧ jumpTarget c m v s = .next s.advance) ∨
      (condHolds c s.flag = true ∧
        ((∃ t, jumpTarget c m v s = .next (s.jumpTo t)) ∨ jumpTarget c m v s = .next (s.raise .outOfBounds))) := by
  unfold jumpTarget
  split
  · next h => exact .inr ⟨h, withTarget24_cases m v s _⟩
  · next h => exact .inl ⟨by simpa using h, rfl⟩

/-! ### The string scan (R260) -/

/-- A scan emits the string at its start and advances pc, or raises UnterminatedString, or raises
OutOfBounds for a start outside memory. -/
theorem scanAndAdvance_cases (a : Word) (s : State) :
    (a.toNat < s.mem.size ∧ ∃ r, s.mem.string a.toNat = some r ∧ scanAndAdvance a s = .next (s.emit r).advance) ∨
      (a.toNat < s.mem.size ∧ s.mem.string a.toNat = none ∧ scanAndAdvance a s = .next (s.raise .unterminatedString)) ∨
      (s.mem.size ≤ a.toNat ∧ scanAndAdvance a s = .next (s.raise .outOfBounds)) := by
  unfold scanAndAdvance
  split
  · next h =>
    split
    · next r hr => exact .inl ⟨h, r, hr, rfl⟩
    · next hr => exact .inr (.inl ⟨h, hr, rfl⟩)
  · next h => exact .inr (.inr ⟨by omega, rfl⟩)

/-! ### Fetch (R125, R126) -/

/-- Fetch gives the four bytes at pc to what follows, or raises OutOfBounds. -/
theorem withFetch_cases (s : State) (k : List Byte → Result) :
    (s.pc.toNat + 4 ≤ s.mem.size ∧ withFetch s k = k (s.mem.bytesFrom s.pc.toNat 4)) ∨
      (s.mem.size < s.pc.toNat + 4 ∧ withFetch s k = .next (s.raise .outOfBounds)) := by
  unfold withFetch
  split
  · next h => exact .inl ⟨by simpa using h, rfl⟩
  · next h => exact .inr ⟨by simpa using h, rfl⟩

/-- The four bytes a fetch reads, written out. -/
theorem bytesFrom_four (m : Memory) (a : Nat) :
    m.bytesFrom a 4 = [m.byte a, m.byte (a + 1), m.byte (a + 2), m.byte (a + 3)] := rfl

end Sys2Proof.Machine
end

