-- ==== Sys2Proof/Laws/Exec.lean ====
section
/-!
SUPPORT. Everything an instruction can answer, said once: `exec_cases` gives, for every instruction and state,
the one form its next state has. Later proofs about all instructions cite it instead of
unfolding the sixty meanings.
-/
namespace Sys2Proof.Machine

/-- The forms an instruction's next state can have, each with the opcodes that can answer it. -/
inductive Effect (i : Instr) (s : State) : State → Prop where
  /-- A fault, of any instruction; IllegalInstruction of `igl` alone. -/
  | fault (r : Reason) (hr : r ≠ .none) (hi : r = .illegalInstruction → i = .igl) : Effect i s (s.raise r)
  /-- A register written: a load, MOV or an arithmetic instruction. -/
  | writeReg (r : Nat) (v : Word) (hr : destReg i = some r) :
      Effect i s (s.setReg r v).advance
  /-- The flag written: a comparison. -/
  | writeFlag (b : Bool) (ho : 12 ≤ instrOpcode i ∧ instrOpcode i ≤ 17) : Effect i s (s.setFlag b).advance
  /-- Bytes stored at the instruction's own address, all of them in memory: a store. -/
  | store (wd : Width) (a : Nat) (v : Word) (ha : a + widthBytes wd ≤ s.mem.size)
      (hs : storeTarget i s = some (a, widthBytes wd)) (ho : 4 ≤ instrOpcode i ∧ instrOpcode i ≤ 6) : Effect i s (s.setMem (s.mem.store wd a v)).advance
  /-- A jump taken. -/
  | jump (target : Word)
      (ho : instrOpcode i = 18 ∨ (instrOpcode i = 19 ∧ s.flag = true) ∨ (instrOpcode i = 20 ∧ s.flag = false)) :
      Effect i s (s.jumpTo target)
  /-- A conditional jump not taken. -/
  | fall (ho : (instrOpcode i = 19 ∧ s.flag = false) ∨ (instrOpcode i = 20 ∧ s.flag = true)) : Effect i s s.advance
  /-- A string emitted. -/
  | print (record : List Byte) (hr : ∀ x ∈ record, x ≠ 0) (ho : instrOpcode i = 21) : Effect i s (s.emit record).advance
  /-- HLT. -/
  | halt (hi : i = .hlt) : Effect i s s.halt

/-- What is answered is a next state of one of the forms. -/
def Answers (i : Instr) (s : State) (o : Result) : Prop := ∃ t, o = .next t ∧ Effect i s t

/-! ### Destinations -/

/-- A destination register is one of the registers the instruction names. -/
theorem destReg_mem_regIndices {i : Instr} {r : Nat} (h : destReg i = some r) : r ∈ i.regIndices := by
  cases i <;> simp_all [destReg, Instr.regIndices]

/-- Only loads, MOV and arithmetic have a destination register. -/
theorem destReg_isSome (i : Instr) :
    (destReg i).isSome = true ↔ (1 ≤ instrOpcode i ∧ instrOpcode i ≤ 3) ∨ (7 ≤ instrOpcode i ∧ instrOpcode i ≤ 11) := by
  cases i <;> simp [destReg, instrOpcode, encode]

/-- Only stores have an address stored to. -/
theorem storeTarget_isSome (i : Instr) (s : State) :
    (storeTarget i s).isSome = true ↔ 4 ≤ instrOpcode i ∧ instrOpcode i ≤ 6 := by
  cases i <;> simp [storeTarget, instrOpcode, encode]

/-! ### One lemma per shared operation -/

theorem raise_effect (i : Instr) (s : State) : Answers i s (.next (s.raise .outOfBounds)) :=
  ⟨_, rfl, .fault _ (by simp) (by simp)⟩

theorem checkRegs_effect {i : Instr} {s : State} {idx : List Nat} {k : Result} (hk : Answers i s k) :
    Answers i s (checkRegs idx s k) := by
  obtain ⟨-, e⟩ | ⟨-, e⟩ := checkRegs_cases idx s k
  · rwa [e]
  · rw [e]; exact raise_effect i s

theorem withRead_effect {i : Instr} {s : State} {wd : Width} {a : Word} {k : Word → Result}
    (hk : ∀ v, Answers i s (k v)) : Answers i s (withRead wd a s k) := by
  obtain ⟨-, e⟩ | ⟨-, e⟩ := withRead_cases wd a s k
  · rw [e]; exact hk _
  · rw [e]; exact raise_effect i s

theorem withValRV_effect {i : Instr} {s : State} {m : Mode} {v : BitVec 16} {k : Word → Result}
    (hk : ∀ b, Answers i s (k b)) : Answers i s (withValRV m v s k) := by
  obtain ⟨b, e⟩ | e := withValRV_cases m v s k
  · rw [e]; exact hk b
  · rw [e]; exact raise_effect i s

theorem withTarget24_effect {i : Instr} {s : State} {m : Mode} {v : BitVec 24} {k : Word → Result}
    (hk : ∀ b, Answers i s (k b)) : Answers i s (withTarget24 m v s k) := by
  obtain ⟨b, e⟩ | e := withTarget24_cases m v s k
  · rw [e]; exact hk b
  · rw [e]; exact raise_effect i s

theorem writeAndAdvance_effect {i : Instr} {s : State} {r : Nat} {v : Word} (hr : destReg i = some r) :
    Answers i s (writeAndAdvance r v s) :=
  ⟨_, rfl, .writeReg r v hr⟩

theorem flagAndAdvance_effect {i : Instr} {s : State} {b : Bool}
    (ho : 12 ≤ instrOpcode i ∧ instrOpcode i ≤ 17) : Answers i s (flagAndAdvance b s) :=
  ⟨_, rfl, .writeFlag b ho⟩

theorem storeAndAdvance_effect {i : Instr} {s : State} {wd : Width} {a v : Word}
    (hs : storeTarget i s = some (a.toNat, widthBytes wd)) (ho : 4 ≤ instrOpcode i ∧ instrOpcode i ≤ 6) : Answers i s (storeAndAdvance wd a v s) := by
  obtain ⟨h, e⟩ | ⟨-, e⟩ := storeAndAdvance_cases wd a v s
  · exact ⟨_, e, .store wd a.toNat v h hs ho⟩
  · rw [e]; exact raise_effect i s

theorem aluAndAdvance_effect {i : Instr} {s : State} {f : AluOp} {r : Nat} {a b : Word} (hr : destReg i = some r) :
    Answers i s (aluAndAdvance f r a b s) := by
  obtain ⟨-, e⟩ | ⟨-, -, e⟩ := aluAndAdvance_cases f r a b s
  · exact ⟨_, e, .writeReg r _ hr⟩
  · exact ⟨_, e, .fault _ (by simp) (by simp)⟩

theorem jumpTarget_effect {i : Instr} {s : State} {c : Cond} {m : Mode} {v : BitVec 24}
    (ho : (c = .always ∧ instrOpcode i = 18) ∨ (c = .ifSet ∧ instrOpcode i = 19) ∨ (c = .ifClear ∧ instrOpcode i = 20)) :
    Answers i s (jumpTarget c m v s) := by
  obtain ⟨hc, e⟩ | ⟨hc, ⟨t, e⟩ | e⟩ := jumpTarget_cases c m v s
  · refine ⟨_, e, .fall ?_⟩
    obtain ⟨rfl, h⟩ | ⟨rfl, h⟩ | ⟨rfl, h⟩ := ho <;> simp_all [condHolds]
  · refine ⟨_, e, .jump t ?_⟩
    obtain ⟨rfl, h⟩ | ⟨rfl, h⟩ | ⟨rfl, h⟩ := ho <;> simp_all [condHolds]
  · rw [e]; exact raise_effect i s

/-- The scan's record holds no zero byte. -/
theorem Memory.string_nonzero {m : Memory} {a : Nat} {record : List Byte} (h : m.string a = some record) :
    ∀ x ∈ record, x ≠ 0 := by
  obtain ⟨-, -, h3⟩ := (m.scanFrom_eq_some a (m.size - a) record).1 h
  intro x hx
  obtain ⟨k, hk, rfl⟩ := List.getElem_of_mem hx
  have := h3 k hk
  rw [List.getD_eq_getElem _ _ hk] at this
  exact this.2 ▸ this.1

theorem scanAndAdvance_effect {i : Instr} {s : State} {a : Word} (ho : instrOpcode i = 21) :
    Answers i s (scanAndAdvance a s) := by
  obtain ⟨-, r, hr, e⟩ | ⟨-, -, e⟩ | ⟨-, e⟩ := scanAndAdvance_cases a s
  · exact ⟨_, e, .print r (Memory.string_nonzero hr) ho⟩
  · exact ⟨_, e, .fault _ (by simp) (by simp)⟩
  · rw [e]; exact raise_effect i s

/-! ### All instructions -/

/-- Every instruction answers a next state, of one of the forms of `Effect`. -/
theorem exec_cases (i : Instr) (s : State) : Answers i s (exec i s) := by
  cases i with
  | igl => exact ⟨_, rfl, .fault _ (by simp) (by simp)⟩
  | hlt => exact ⟨_, rfl, .halt rfl⟩
  | _ =>
    first
    | (apply checkRegs_effect; apply writeAndAdvance_effect)
    | (apply checkRegs_effect; apply withRead_effect; intro v; apply writeAndAdvance_effect)
    | (apply checkRegs_effect; apply storeAndAdvance_effect)
    | (apply checkRegs_effect; apply withValRV_effect; intro b; apply aluAndAdvance_effect)
    | (apply checkRegs_effect; apply aluAndAdvance_effect)
    | (apply checkRegs_effect; apply withValRV_effect; intro b; apply flagAndAdvance_effect)
    | apply jumpTarget_effect
    | (simp only [exec, execJmpi, execJmpd]; apply jumpTarget_effect)
    | (apply checkRegs_effect; apply jumpTarget_effect)
    | (simp only [exec, execPrtsi, execPrtsd]; apply withTarget24_effect; intro a; apply scanAndAdvance_effect)
    | (apply checkRegs_effect; apply withTarget24_effect; intro a; apply scanAndAdvance_effect)
    all_goals simp [destReg, storeTarget, instrOpcode, encode]

/-! ### Runs -/

/-- `runSteps` is the host's run of this machine. -/
theorem runSteps_eq_core_run (n : Nat) (s : State) : runSteps n s = Sys2Proof.core.run n s := by
  induction n generalizing s with
  | zero => rfl
  | succ n ih =>
    simp only [runSteps, Host.Core.run]
    cases h : step s with
    | next t =>
      have hc : Sys2Proof.core.step s = .next t := h
      rw [hc]; exact ih t
    | fault r =>
      have hc : Sys2Proof.core.step s = .fault r := h
      rw [hc]; rfl
    | refused r =>
      have hc : Sys2Proof.core.step s = .refused r := h
      rw [hc]; rfl

end Sys2Proof.Machine
end

