-- ==== Sys2Proof/Laws/PerInstr.lean ====
section
/-!
SUPPORT. Facts about every instruction as syntax, one lemma per constructor. Byte0: the first byte in memory
of an instruction's word is `op × 4 + md`, the number the table of spec 30_encoding.md R90 gives its row (R82).
-/
namespace Sys2Proof.Laws

/-- The byte-0 column of R90's table. -/
def byte0 : Instr → Nat
  | .igl => 0x00
  | .ldi _ _ => 0x04
  | .ldd _ _ => 0x05
  | .ldr _ _ => 0x06
  | .ldhi _ _ => 0x08
  | .ldhd _ _ => 0x09
  | .ldhr _ _ => 0x0A
  | .ldbi _ _ => 0x0C
  | .ldbd _ _ => 0x0D
  | .ldbr _ _ => 0x0E
  | .strd _ _ => 0x11
  | .strr _ _ => 0x12
  | .strhd _ _ => 0x15
  | .strhr _ _ => 0x16
  | .strbd _ _ => 0x19
  | .strbr _ _ => 0x1A
  | .mov _ _ => 0x1C
  | .addi _ _ => 0x20
  | .addd _ _ => 0x21
  | .addr _ _ _ => 0x22
  | .subi _ _ => 0x24
  | .subd _ _ => 0x25
  | .subr _ _ _ => 0x26
  | .muli _ _ => 0x28
  | .muld _ _ => 0x29
  | .mulr _ _ _ => 0x2A
  | .divi _ _ => 0x2C
  | .divd _ _ => 0x2D
  | .divr _ _ _ => 0x2E
  | .eqi _ _ => 0x30
  | .eqd _ _ => 0x31
  | .eqr _ _ => 0x32
  | .neqi _ _ => 0x34
  | .neqd _ _ => 0x35
  | .neqr _ _ => 0x36
  | .gti _ _ => 0x38
  | .gtd _ _ => 0x39
  | .gtr _ _ => 0x3A
  | .gtei _ _ => 0x3C
  | .gted _ _ => 0x3D
  | .gter _ _ => 0x3E
  | .lti _ _ => 0x40
  | .ltd _ _ => 0x41
  | .ltr _ _ => 0x42
  | .ltei _ _ => 0x44
  | .lted _ _ => 0x45
  | .lter _ _ => 0x46
  | .jmpi _ => 0x48
  | .jmpd _ => 0x49
  | .jmpr _ => 0x4A
  | .jmpei _ => 0x4C
  | .jmped _ => 0x4D
  | .jmper _ => 0x4E
  | .jmpnei _ => 0x50
  | .jmpned _ => 0x51
  | .jmpner _ => 0x52
  | .prtsi _ => 0x54
  | .prtsd _ => 0x55
  | .prtsr _ => 0x56
  | .hlt => 0x58

/-- The first byte of the instruction's word, as a number. -/
def Byte0.Statement (i : Instr) : Prop := (encode i).toNat / 16777216 = byte0 i

theorem packRV_byte0 (op : BitVec 6) (md : BitVec 2) (a : BitVec 8) (v : BitVec 16) :
    (packRV op md a v).toNat / 16777216 = op.toNat * 4 + md.toNat := by
  have := a.isLt; have := v.isLt
  rw [packRV_toNat]; omega

theorem packRRR_byte0 (op : BitVec 6) (md : BitVec 2) (a b c : BitVec 8) :
    (packRRR op md a b c).toNat / 16777216 = op.toNat * 4 + md.toNat := by
  have := a.isLt; have := b.isLt; have := c.isLt
  rw [packRRR_toNat]; omega

theorem packA24_byte0 (op : BitVec 6) (md : BitVec 2) (v : BitVec 24) :
    (packA24 op md v).toNat / 16777216 = op.toNat * 4 + md.toNat := by
  have := v.isLt
  rw [packA24_toNat]; omega

theorem Byte0.igl : Byte0.Statement .igl := packA24_byte0 _ _ _
theorem Byte0.ldi (r : BitVec 8) (v : BitVec 16) : Byte0.Statement (.ldi r v) := packRV_byte0 _ _ _ _
theorem Byte0.ldd (r : BitVec 8) (v : BitVec 16) : Byte0.Statement (.ldd r v) := packRV_byte0 _ _ _ _
theorem Byte0.ldr (r : BitVec 8) (v : BitVec 16) : Byte0.Statement (.ldr r v) := packRV_byte0 _ _ _ _
theorem Byte0.ldhi (r : BitVec 8) (v : BitVec 16) : Byte0.Statement (.ldhi r v) := packRV_byte0 _ _ _ _
theorem Byte0.ldhd (r : BitVec 8) (v : BitVec 16) : Byte0.Statement (.ldhd r v) := packRV_byte0 _ _ _ _
theorem Byte0.ldhr (r : BitVec 8) (v : BitVec 16) : Byte0.Statement (.ldhr r v) := packRV_byte0 _ _ _ _
theorem Byte0.ldbi (r : BitVec 8) (v : BitVec 16) : Byte0.Statement (.ldbi r v) := packRV_byte0 _ _ _ _
theorem Byte0.ldbd (r : BitVec 8) (v : BitVec 16) : Byte0.Statement (.ldbd r v) := packRV_byte0 _ _ _ _
theorem Byte0.ldbr (r : BitVec 8) (v : BitVec 16) : Byte0.Statement (.ldbr r v) := packRV_byte0 _ _ _ _
theorem Byte0.strd (r : BitVec 8) (v : BitVec 16) : Byte0.Statement (.strd r v) := packRV_byte0 _ _ _ _
theorem Byte0.strr (r : BitVec 8) (v : BitVec 16) : Byte0.Statement (.strr r v) := packRV_byte0 _ _ _ _
theorem Byte0.strhd (r : BitVec 8) (v : BitVec 16) : Byte0.Statement (.strhd r v) := packRV_byte0 _ _ _ _
theorem Byte0.strhr (r : BitVec 8) (v : BitVec 16) : Byte0.Statement (.strhr r v) := packRV_byte0 _ _ _ _
theorem Byte0.strbd (r : BitVec 8) (v : BitVec 16) : Byte0.Statement (.strbd r v) := packRV_byte0 _ _ _ _
theorem Byte0.strbr (r : BitVec 8) (v : BitVec 16) : Byte0.Statement (.strbr r v) := packRV_byte0 _ _ _ _
theorem Byte0.mov (rd rs : BitVec 8) : Byte0.Statement (.mov rd rs) := packRRR_byte0 _ _ _ _ _
theorem Byte0.addi (rd : BitVec 8) (v : BitVec 16) : Byte0.Statement (.addi rd v) := packRV_byte0 _ _ _ _
theorem Byte0.addd (rd : BitVec 8) (v : BitVec 16) : Byte0.Statement (.addd rd v) := packRV_byte0 _ _ _ _
theorem Byte0.addr (rd rs1 rs2 : BitVec 8) : Byte0.Statement (.addr rd rs1 rs2) := packRRR_byte0 _ _ _ _ _
theorem Byte0.subi (rd : BitVec 8) (v : BitVec 16) : Byte0.Statement (.subi rd v) := packRV_byte0 _ _ _ _
theorem Byte0.subd (rd : BitVec 8) (v : BitVec 16) : Byte0.Statement (.subd rd v) := packRV_byte0 _ _ _ _
theorem Byte0.subr (rd rs1 rs2 : BitVec 8) : Byte0.Statement (.subr rd rs1 rs2) := packRRR_byte0 _ _ _ _ _
theorem Byte0.muli (rd : BitVec 8) (v : BitVec 16) : Byte0.Statement (.muli rd v) := packRV_byte0 _ _ _ _
theorem Byte0.muld (rd : BitVec 8) (v : BitVec 16) : Byte0.Statement (.muld rd v) := packRV_byte0 _ _ _ _
theorem Byte0.mulr (rd rs1 rs2 : BitVec 8) : Byte0.Statement (.mulr rd rs1 rs2) := packRRR_byte0 _ _ _ _ _
theorem Byte0.divi (rd : BitVec 8) (v : BitVec 16) : Byte0.Statement (.divi rd v) := packRV_byte0 _ _ _ _
theorem Byte0.divd (rd : BitVec 8) (v : BitVec 16) : Byte0.Statement (.divd rd v) := packRV_byte0 _ _ _ _
theorem Byte0.divr (rd rs1 rs2 : BitVec 8) : Byte0.Statement (.divr rd rs1 rs2) := packRRR_byte0 _ _ _ _ _
theorem Byte0.eqi (r : BitVec 8) (v : BitVec 16) : Byte0.Statement (.eqi r v) := packRV_byte0 _ _ _ _
theorem Byte0.eqd (r : BitVec 8) (v : BitVec 16) : Byte0.Statement (.eqd r v) := packRV_byte0 _ _ _ _
theorem Byte0.eqr (r : BitVec 8) (v : BitVec 16) : Byte0.Statement (.eqr r v) := packRV_byte0 _ _ _ _
theorem Byte0.neqi (r : BitVec 8) (v : BitVec 16) : Byte0.Statement (.neqi r v) := packRV_byte0 _ _ _ _
theorem Byte0.neqd (r : BitVec 8) (v : BitVec 16) : Byte0.Statement (.neqd r v) := packRV_byte0 _ _ _ _
theorem Byte0.neqr (r : BitVec 8) (v : BitVec 16) : Byte0.Statement (.neqr r v) := packRV_byte0 _ _ _ _
theorem Byte0.gti (r : BitVec 8) (v : BitVec 16) : Byte0.Statement (.gti r v) := packRV_byte0 _ _ _ _
theorem Byte0.gtd (r : BitVec 8) (v : BitVec 16) : Byte0.Statement (.gtd r v) := packRV_byte0 _ _ _ _
theorem Byte0.gtr (r : BitVec 8) (v : BitVec 16) : Byte0.Statement (.gtr r v) := packRV_byte0 _ _ _ _
theorem Byte0.gtei (r : BitVec 8) (v : BitVec 16) : Byte0.Statement (.gtei r v) := packRV_byte0 _ _ _ _
theorem Byte0.gted (r : BitVec 8) (v : BitVec 16) : Byte0.Statement (.gted r v) := packRV_byte0 _ _ _ _
theorem Byte0.gter (r : BitVec 8) (v : BitVec 16) : Byte0.Statement (.gter r v) := packRV_byte0 _ _ _ _
theorem Byte0.lti (r : BitVec 8) (v : BitVec 16) : Byte0.Statement (.lti r v) := packRV_byte0 _ _ _ _
theorem Byte0.ltd (r : BitVec 8) (v : BitVec 16) : Byte0.Statement (.ltd r v) := packRV_byte0 _ _ _ _
theorem Byte0.ltr (r : BitVec 8) (v : BitVec 16) : Byte0.Statement (.ltr r v) := packRV_byte0 _ _ _ _
theorem Byte0.ltei (r : BitVec 8) (v : BitVec 16) : Byte0.Statement (.ltei r v) := packRV_byte0 _ _ _ _
theorem Byte0.lted (r : BitVec 8) (v : BitVec 16) : Byte0.Statement (.lted r v) := packRV_byte0 _ _ _ _
theorem Byte0.lter (r : BitVec 8) (v : BitVec 16) : Byte0.Statement (.lter r v) := packRV_byte0 _ _ _ _
theorem Byte0.jmpi (v : BitVec 24) : Byte0.Statement (.jmpi v) := packA24_byte0 _ _ _
theorem Byte0.jmpd (v : BitVec 24) : Byte0.Statement (.jmpd v) := packA24_byte0 _ _ _
theorem Byte0.jmpr (v : BitVec 24) : Byte0.Statement (.jmpr v) := packA24_byte0 _ _ _
theorem Byte0.jmpei (v : BitVec 24) : Byte0.Statement (.jmpei v) := packA24_byte0 _ _ _
theorem Byte0.jmped (v : BitVec 24) : Byte0.Statement (.jmped v) := packA24_byte0 _ _ _
theorem Byte0.jmper (v : BitVec 24) : Byte0.Statement (.jmper v) := packA24_byte0 _ _ _
theorem Byte0.jmpnei (v : BitVec 24) : Byte0.Statement (.jmpnei v) := packA24_byte0 _ _ _
theorem Byte0.jmpned (v : BitVec 24) : Byte0.Statement (.jmpned v) := packA24_byte0 _ _ _
theorem Byte0.jmpner (v : BitVec 24) : Byte0.Statement (.jmpner v) := packA24_byte0 _ _ _
theorem Byte0.prtsi (v : BitVec 24) : Byte0.Statement (.prtsi v) := packA24_byte0 _ _ _
theorem Byte0.prtsd (v : BitVec 24) : Byte0.Statement (.prtsd v) := packA24_byte0 _ _ _
theorem Byte0.prtsr (v : BitVec 24) : Byte0.Statement (.prtsr v) := packA24_byte0 _ _ _
theorem Byte0.hlt : Byte0.Statement .hlt := packA24_byte0 _ _ _

end Sys2Proof.Laws
end

