-- ==== Sys2Proof/Tests/Slice0.lean ====
section
/-!
SUPPORT. The model's own tests. Expected results come from spec 95_test_vectors.md (the vector's name stands in the
docstring) or are worked out by hand from the rule named. Then one theorem for each statement of
Certificates/Slice0/Obligations.lean that has hypotheses: concrete values that meet them, clause by clause.
-/
namespace Sys2Proof.Tests
open Sys2Proof.Machine

/-- The reference machine just before a vector: reset with pc = 0x80, and registers, flag and bytes of
memory set (95_test_vectors.md section 2.2). -/
def bench (regs : List (Nat × Word)) (flag : Bool) (bytes : List (Nat × List Byte)) : State :=
  let s : State := regs.foldl (fun s r => s.setReg r.1 r.2) { State.reset with pc := 0x80, flag := flag }
  s.setMem (bytes.foldl (fun m b => m.writeBytes b.1 b.2) s.mem)

/-- One step on a word placed at pc gives a next state with a property. -/
def oneStep (s : State) (w : Nat) (p : State → Bool) : Bool :=
  match step (s.withFetchWord 32 w) with
  | .next t => p t
  | .fault _ => false
  | .refused _ => false

/-- So do `n` steps of a state as it is. -/
def manySteps (n : Nat) (s : State) (p : State → Bool) : Bool :=
  match runSteps n s with
  | .next t => p t
  | .fault _ => false
  | .refused _ => false

/-- An instruction line of a source. -/
def ins (label : Option String) (mnemonic : String) (operands : List Operand) : SourceLine :=
  ⟨label, some (.instruction mnemonic operands)⟩

/-- A directive line of a source. -/
def dir (label : Option String) (name : String) (args : List Operand) : SourceLine := ⟨label, some (.directive name args)⟩

/-- A source assembles to these data bytes and code words, with the data length as entry. -/
def assemblesTo (source : List SourceLine) (data : List Byte) (code : List Word) : Bool :=
  match assemble source with
  | .ok img => decide (img.data = data ∧ img.code = code ∧ img.entry.toNat = data.length)
  | .error _ => false

/-- A source fails with this error at this line. -/
def failsWith (source : List SourceLine) (error : AsmError) (line : Nat) : Bool :=
  match assemble source with
  | .ok _ => false
  | .error f => decide (f = ⟨error, line⟩)

/-! ### WellFormed: one ill-formed term for each row of RegIndices (R131), refused at NUM_REGS = 8 -/

theorem test_ill_formed_transfer :
    ¬ (Instr.ldi 8 0).WellFormed 8 ∧ ¬ (Instr.strd 8 0).WellFormed 8 ∧ ¬ (Instr.ldr 8 7).WellFormed 8 ∧
    ¬ (Instr.ldr 7 8).WellFormed 8 ∧ ¬ (Instr.strr 0 0x100).WellFormed 8 ∧ ¬ (Instr.mov 8 0).WellFormed 8 ∧
    ¬ (Instr.mov 0 8).WellFormed 8 := by
  decide

theorem test_ill_formed_arithmetic :
    ¬ (Instr.addi 8 0).WellFormed 8 ∧ ¬ (Instr.divd 8 0).WellFormed 8 ∧ ¬ (Instr.addr 8 0 0).WellFormed 8 ∧
    ¬ (Instr.subr 0 8 0).WellFormed 8 ∧ ¬ (Instr.mulr 0 0 8).WellFormed 8 := by
  decide

theorem test_ill_formed_comparison :
    ¬ (Instr.eqi 8 0).WellFormed 8 ∧ ¬ (Instr.gtd 8 0).WellFormed 8 ∧ ¬ (Instr.ltr 8 0).WellFormed 8 ∧
    ¬ (Instr.eqr 0 8).WellFormed 8 := by
  decide

theorem test_ill_formed_control :
    ¬ (Instr.jmpr 8).WellFormed 8 ∧ ¬ (Instr.jmper 0xFFFFFF).WellFormed 8 ∧ ¬ (Instr.jmpner 9).WellFormed 8 ∧
    ¬ (Instr.prtsr 8).WellFormed 8 := by
  decide

theorem test_well_formed :
    (Instr.ldr 7 7).WellFormed 8 ∧ (Instr.addr 7 7 7).WellFormed 8 ∧ (Instr.jmpi 0xFFFFFF).WellFormed 8 ∧
    (Instr.ldi 7 0xFFFF).WellFormed 8 ∧ Instr.hlt.WellFormed 8 ∧ Instr.igl.WellFormed 8 := by
  decide

/-! ### Decoding: every constructor, its word written out in 95_test_vectors.md section 2.1 -/

/-- 95_test_vectors.md section 2.1, the words of transfer. -/
theorem test_decode_transfer :
    decodeTableWord 32 0x04031234 = some (.ldi 3 0x1234) ∧
    decodeTableWord 32 0x05031234 = some (.ldd 3 0x1234) ∧
    decodeTableWord 32 0x06030006 = some (.ldr 3 6) ∧
    decodeTableWord 32 0x08031234 = some (.ldhi 3 0x1234) ∧
    decodeTableWord 32 0x09031234 = some (.ldhd 3 0x1234) ∧
    decodeTableWord 32 0x0A030006 = some (.ldhr 3 6) ∧
    decodeTableWord 32 0x0C031234 = some (.ldbi 3 0x1234) ∧
    decodeTableWord 32 0x0D031234 = some (.ldbd 3 0x1234) ∧
    decodeTableWord 32 0x0E030006 = some (.ldbr 3 6) ∧
    decodeTableWord 32 0x11031234 = some (.strd 3 0x1234) ∧
    decodeTableWord 32 0x12030006 = some (.strr 3 6) ∧
    decodeTableWord 32 0x15031234 = some (.strhd 3 0x1234) ∧
    decodeTableWord 32 0x16030006 = some (.strhr 3 6) ∧
    decodeTableWord 32 0x19031234 = some (.strbd 3 0x1234) ∧
    decodeTableWord 32 0x1A030006 = some (.strbr 3 6) ∧
    decodeTableWord 32 0x1C030400 = some (.mov 3 4) := by
  decide

/-- 95_test_vectors.md section 2.1, the words of arithmetic. -/
theorem test_decode_arithmetic :
    decodeTableWord 32 0x20031234 = some (.addi 3 0x1234) ∧
    decodeTableWord 32 0x21031234 = some (.addd 3 0x1234) ∧
    decodeTableWord 32 0x22030405 = some (.addr 3 4 5) ∧
    decodeTableWord 32 0x24031234 = some (.subi 3 0x1234) ∧
    decodeTableWord 32 0x25031234 = some (.subd 3 0x1234) ∧
    decodeTableWord 32 0x26030405 = some (.subr 3 4 5) ∧
    decodeTableWord 32 0x28031234 = some (.muli 3 0x1234) ∧
    decodeTableWord 32 0x29031234 = some (.muld 3 0x1234) ∧
    decodeTableWord 32 0x2A030405 = some (.mulr 3 4 5) ∧
    decodeTableWord 32 0x2C031234 = some (.divi 3 0x1234) ∧
    decodeTableWord 32 0x2D031234 = some (.divd 3 0x1234) ∧
    decodeTableWord 32 0x2E030405 = some (.divr 3 4 5) := by
  decide

/-- 95_test_vectors.md section 2.1, the words of comparison. -/
theorem test_decode_comparison :
    decodeTableWord 32 0x30031234 = some (.eqi 3 0x1234) ∧
    decodeTableWord 32 0x31031234 = some (.eqd 3 0x1234) ∧
    decodeTableWord 32 0x32030006 = some (.eqr 3 6) ∧
    decodeTableWord 32 0x34031234 = some (.neqi 3 0x1234) ∧
    decodeTableWord 32 0x35031234 = some (.neqd 3 0x1234) ∧
    decodeTableWord 32 0x36030006 = some (.neqr 3 6) ∧
    decodeTableWord 32 0x38031234 = some (.gti 3 0x1234) ∧
    decodeTableWord 32 0x39031234 = some (.gtd 3 0x1234) ∧
    decodeTableWord 32 0x3A030006 = some (.gtr 3 6) ∧
    decodeTableWord 32 0x3C031234 = some (.gtei 3 0x1234) ∧
    decodeTableWord 32 0x3D031234 = some (.gted 3 0x1234) ∧
    decodeTableWord 32 0x3E030006 = some (.gter 3 6) ∧
    decodeTableWord 32 0x40031234 = some (.lti 3 0x1234) ∧
    decodeTableWord 32 0x41031234 = some (.ltd 3 0x1234) ∧
    decodeTableWord 32 0x42030006 = some (.ltr 3 6) ∧
    decodeTableWord 32 0x44031234 = some (.ltei 3 0x1234) ∧
    decodeTableWord 32 0x45031234 = some (.lted 3 0x1234) ∧
    decodeTableWord 32 0x46030006 = some (.lter 3 6) := by
  decide

/-- 95_test_vectors.md section 2.1, the words of control. -/
theorem test_decode_control :
    decodeTableWord 32 0x4800ABCD = some (.jmpi 0x00ABCD) ∧
    decodeTableWord 32 0x4900ABCD = some (.jmpd 0x00ABCD) ∧
    decodeTableWord 32 0x4A000007 = some (.jmpr 7) ∧
    decodeTableWord 32 0x4C00ABCD = some (.jmpei 0x00ABCD) ∧
    decodeTableWord 32 0x4D00ABCD = some (.jmped 0x00ABCD) ∧
    decodeTableWord 32 0x4E000007 = some (.jmper 7) ∧
    decodeTableWord 32 0x5000ABCD = some (.jmpnei 0x00ABCD) ∧
    decodeTableWord 32 0x5100ABCD = some (.jmpned 0x00ABCD) ∧
    decodeTableWord 32 0x52000007 = some (.jmpner 7) := by
  decide

/-- 95_test_vectors.md section 2.1, the words of special. -/
theorem test_decode_special :
    decodeTableWord 32 0x5400ABCD = some (.prtsi 0x00ABCD) ∧
    decodeTableWord 32 0x5500ABCD = some (.prtsd 0x00ABCD) ∧
    decodeTableWord 32 0x56000007 = some (.prtsr 7) ∧
    decodeTableWord 32 0x58000000 = some .hlt ∧
    decodeTableWord 32 0x00000000 = some .igl := by
  decide

/-! ### One step: the vectors of 95_test_vectors.md section 2.2, and a few worked out by hand from the rule named -/

/-- V-DEC-1: IGL word. -/
theorem test_igl_word :
    oneStep (bench [] false []) 0x00000000 (fun t => decide (t.status = .faulted ∧ t.reason = .illegalInstruction ∧ t.pc = 0x80)) = true := by
  decide

/-- V-DEC-4: unassigned op 63. -/
theorem test_unassigned_op_63 :
    oneStep (bench [] false []) 0xFF000000 (fun t => decide (t.status = .faulted ∧ t.reason = .illegalInstruction ∧ t.pc = 0x80)) = true := by
  decide

/-- V-DEC-5: md 3 on LD. -/
theorem test_md_3_on_ld :
    oneStep (bench [] false []) 0x07000000 (fun t => decide (t.status = .faulted ∧ t.reason = .illegalInstruction ∧ t.pc = 0x80)) = true := by
  decide

/-- V-DEC-6: STRI (store, md I). -/
theorem test_stri_store_md_i :
    oneStep (bench [] false []) 0x10000000 (fun t => decide (t.status = .faulted ∧ t.reason = .illegalInstruction ∧ t.pc = 0x80)) = true := by
  decide

/-- V-DEC-7: MOV with md D. -/
theorem test_mov_with_md_d :
    oneStep (bench [] false []) 0x1D070000 (fun t => decide (t.status = .faulted ∧ t.reason = .illegalInstruction ∧ t.pc = 0x80)) = true := by
  decide

/-- V-DEC-9: HLT with nonzero operand bits. -/
theorem test_hlt_with_nonzero_operand_bits :
    oneStep (bench [] false []) 0x58FFFFFF (fun t => decide (t.status = .halted ∧ t.pc = 0x80)) = true := by
  decide

/-- V-DEC-10: MOV with nonzero C. -/
theorem test_mov_with_nonzero_c :
    oneStep (bench [(0, 0x5)] false []) 0x1C0700FF (fun t => decide (t.status = .running ∧ t.pc = 0x84 ∧ t.reg 7 = 0x5)) = true := by
  decide

/-- V-DEC-11: fetch straddles end (pc = 253). -/
theorem test_fetch_straddles_end_pc_253 :
    oneStep { bench [] false [] with pc := 0xFD } 0x58000000 (fun t => decide (t.status = .faulted ∧ t.reason = .outOfBounds ∧ t.pc = 0xFD)) = true := by
  decide

/-- V-DEC-12: fetch exactly at end (pc = 252) legal. -/
theorem test_fetch_exactly_at_end_pc_252_legal :
    oneStep { bench [] false [] with pc := 0xFC } 0x58000000 (fun t => decide (t.status = .halted ∧ t.pc = 0xFC)) = true := by
  decide

/-- V-DEC-15: R-mode V16 register index 0x0100. -/
theorem test_r_mode_v16_register_index_0x0100 :
    oneStep (bench [] false []) 0x32000100 (fun t => decide (t.status = .faulted ∧ t.reason = .outOfBounds ∧ t.pc = 0x80)) = true := by
  decide

/-- V-DEC-16: JMPER index 9 not taken still faults. -/
theorem test_jmper_index_9_not_taken_still_faults :
    oneStep (bench [] false []) 0x4E000009 (fun t => decide (t.status = .faulted ∧ t.reason = .outOfBounds ∧ t.pc = 0x80)) = true := by
  decide

/-- V-DEC-17: illegal beats register check (md 3, A=0xFF). -/
theorem test_illegal_beats_register_check_md_3_a_0xff :
    oneStep (bench [] false []) 0x23FF0000 (fun t => decide (t.status = .faulted ∧ t.reason = .illegalInstruction ∧ t.pc = 0x80)) = true := by
  decide

/-- V-DT-1: LDI max literal. -/
theorem test_ldi_max_literal :
    oneStep (bench [] false []) 0x0401FFFF (fun t => decide (t.status = .running ∧ t.pc = 0x84 ∧ t.reg 1 = 0xFFFF)) = true := by
  decide

/-- V-DT-2: LDBI truncates. -/
theorem test_ldbi_truncates :
    oneStep (bench [] false []) 0x0C001234 (fun t => decide (t.status = .running ∧ t.pc = 0x84 ∧ t.reg 0 = 0x34)) = true := by
  decide

/-- V-DT-3: LDHI. -/
theorem test_ldhi :
    oneStep (bench [] false []) 0x0800BEEF (fun t => decide (t.status = .running ∧ t.pc = 0x84 ∧ t.reg 0 = 0xBEEF)) = true := by
  decide

/-- V-DT-4: LDD big-endian word. -/
theorem test_ldd_big_endian_word :
    oneStep (bench [] false [(0x10, [0x11, 0x22, 0x33, 0x44])]) 0x05010010 (fun t => decide (t.status = .running ∧ t.pc = 0x84 ∧ t.reg 1 = 0x11223344)) = true := by
  decide

/-- V-DT-5: LDD misaligned. -/
theorem test_ldd_misaligned :
    oneStep (bench [] false [(0x10, [0x11, 0x22, 0x33, 0x44, 0x55])]) 0x05010011 (fun t => decide (t.status = .running ∧ t.pc = 0x84 ∧ t.reg 1 = 0x22334455)) = true := by
  decide

/-- V-DT-9: LDHD zero-extends, clears upper bits. -/
theorem test_ldhd_zero_extends_clears_upper_bits :
    oneStep (bench [(1, 0xFFFFFFFF)] false [(0x10, [0xFF, 0x01])]) 0x09010010 (fun t => decide (t.status = .running ∧ t.pc = 0x84 ∧ t.reg 1 = 0xFF01)) = true := by
  decide

/-- V-DT-10: LDBD no sign extension. -/
theorem test_ldbd_no_sign_extension :
    oneStep (bench [] false [(0x10, [0x80])]) 0x0D020010 (fun t => decide (t.status = .running ∧ t.pc = 0x84 ∧ t.reg 2 = 0x80)) = true := by
  decide

/-- V-DT-11: LDBD last byte (a = 255). -/
theorem test_ldbd_last_byte_a_255 :
    oneStep (bench [] false [(0xFF, [0x5A])]) 0x0D0200FF (fun t => decide (t.status = .running ∧ t.pc = 0x84 ∧ t.reg 2 = 0x5A)) = true := by
  decide

/-- V-DT-13: LDR r = s. -/
theorem test_ldr_r_s :
    oneStep (bench [(2, 0x10)] false [(0x10, [0x00, 0x00, 0x00, 0x2A])]) 0x06020002 (fun t => decide (t.status = .running ∧ t.pc = 0x84 ∧ t.reg 2 = 0x2A)) = true := by
  decide

/-- V-DT-14: LDR address 0xFFFFFFFF no wrap. -/
theorem test_ldr_address_0xffffffff_no_wrap :
    oneStep (bench [(3, 0xFFFFFFFF)] false []) 0x06020003 (fun t => decide (t.status = .faulted ∧ t.reason = .outOfBounds ∧ t.pc = 0x80)) = true := by
  decide

/-- V-DT-15: LDHR. -/
theorem test_ldhr :
    oneStep (bench [(4, 0x11)] false [(0x11, [0x22, 0x33])]) 0x0A050004 (fun t => decide (t.status = .running ∧ t.pc = 0x84 ∧ t.reg 5 = 0x2233)) = true := by
  decide

/-- V-DT-16: LDBR. -/
theorem test_ldbr :
    oneStep (bench [(1, 0x20)] false [(0x20, [0x7F])]) 0x0E010001 (fun t => decide (t.status = .running ∧ t.pc = 0x84 ∧ t.reg 1 = 0x7F)) = true := by
  decide

/-- V-DT-17: STRD big-endian. -/
theorem test_strd_big_endian :
    oneStep (bench [(2, 0xCAFEBABE)] false []) 0x11020020 (fun t => decide (t.status = .running ∧ t.pc = 0x84 ∧ t.mem.bytesFrom 0x20 4 = [0xCA, 0xFE, 0xBA, 0xBE])) = true := by
  decide

/-- V-DT-18: STRD straddling writes nothing. -/
theorem test_strd_straddling_writes_nothing :
    oneStep (bench [(2, 0xCAFEBABE)] false []) 0x110200FE (fun t => decide (t.status = .faulted ∧ t.reason = .outOfBounds ∧ t.pc = 0x80)) = true := by
  decide

/-- V-DT-19: STRR. -/
theorem test_strr :
    oneStep (bench [(0, 0x7), (1, 0x40)] false []) 0x12000001 (fun t => decide (t.status = .running ∧ t.pc = 0x84 ∧ t.mem.bytesFrom 0x43 1 = [0x07])) = true := by
  decide

/-- V-DT-20: STRHD truncates. -/
theorem test_strhd_truncates :
    oneStep (bench [(0, 0x12345678)] false []) 0x15000030 (fun t => decide (t.status = .running ∧ t.pc = 0x84 ∧ t.mem.bytesFrom 0x30 2 = [0x56, 0x78])) = true := by
  decide

/-- V-DT-21: STRHR at 255 faults. -/
theorem test_strhr_at_255_faults :
    oneStep (bench [(0, 0xABCD), (6, 0xFF)] false []) 0x16000006 (fun t => decide (t.status = .faulted ∧ t.reason = .outOfBounds ∧ t.pc = 0x80)) = true := by
  decide

/-- V-DT-22: STRBD truncates. -/
theorem test_strbd_truncates :
    oneStep (bench [(0, 0x17B)] false []) 0x19000000 (fun t => decide (t.status = .running ∧ t.pc = 0x84 ∧ t.mem.bytesFrom 0x0 1 = [0x7B])) = true := by
  decide

/-- V-DT-23: STRBR r = s. -/
theorem test_strbr_r_s :
    oneStep (bench [(2, 0x50)] false []) 0x1A020002 (fun t => decide (t.status = .running ∧ t.pc = 0x84 ∧ t.mem.bytesFrom 0x50 1 = [0x50])) = true := by
  decide

/-- V-DT-24: MOV. -/
theorem test_mov :
    oneStep (bench [(0, 0x7B)] false []) 0x1C070000 (fun t => decide (t.status = .running ∧ t.pc = 0x84 ∧ t.reg 7 = 0x7B)) = true := by
  decide

/-- V-AR-1: ADDI wraps. -/
theorem test_addi_wraps :
    oneStep (bench [(0, 0xFFFFFFFF)] false []) 0x20000001 (fun t => decide (t.status = .running ∧ t.pc = 0x84 ∧ t.reg 0 = 0x0)) = true := by
  decide

/-- V-AR-3: ADDD. -/
theorem test_addd :
    oneStep (bench [(1, 0x5)] false [(0x10, [0x00, 0x00, 0x01, 0x00])]) 0x21010010 (fun t => decide (t.status = .running ∧ t.pc = 0x84 ∧ t.reg 1 = 0x105)) = true := by
  decide

/-- V-AR-4: ADDD out of bounds. -/
theorem test_addd_out_of_bounds :
    oneStep (bench [(1, 0x5)] false []) 0x210100FE (fun t => decide (t.status = .faulted ∧ t.reason = .outOfBounds ∧ t.pc = 0x80)) = true := by
  decide

/-- V-AR-5: ADDR overflow. -/
theorem test_addr_overflow :
    oneStep (bench [(2, 0x80000000), (3, 0x80000001)] false []) 0x22010203 (fun t => decide (t.status = .running ∧ t.pc = 0x84 ∧ t.reg 1 = 0x1)) = true := by
  decide

/-- V-AR-6: ADDR same register. -/
theorem test_addr_same_register :
    oneStep (bench [(1, 0x40000001)] false []) 0x22010101 (fun t => decide (t.status = .running ∧ t.pc = 0x84 ∧ t.reg 1 = 0x80000002)) = true := by
  decide

/-- V-AR-7: SUBI underflow. -/
theorem test_subi_underflow :
    oneStep (bench [] false []) 0x24000001 (fun t => decide (t.status = .running ∧ t.pc = 0x84 ∧ t.reg 0 = 0xFFFFFFFF)) = true := by
  decide

/-- V-AR-8: SUBD. -/
theorem test_subd :
    oneStep (bench [(2, 0xA)] false [(0x10, [0x00, 0x00, 0x00, 0x03])]) 0x25020010 (fun t => decide (t.status = .running ∧ t.pc = 0x84 ∧ t.reg 2 = 0x7)) = true := by
  decide

/-- V-AR-9: SUBR negative wraps. -/
theorem test_subr_negative_wraps :
    oneStep (bench [(1, 0x3), (2, 0x5)] false []) 0x26030102 (fun t => decide (t.status = .running ∧ t.pc = 0x84 ∧ t.reg 3 = 0xFFFFFFFE)) = true := by
  decide

/-- V-AR-11: MULI overflow to 0. -/
theorem test_muli_overflow_to_0 :
    oneStep (bench [(0, 0x1000000)] false []) 0x28000100 (fun t => decide (t.status = .running ∧ t.pc = 0x84 ∧ t.reg 0 = 0x0)) = true := by
  decide

/-- V-AR-12: MULD. -/
theorem test_muld :
    oneStep (bench [(1, 0x6)] false [(0x20, [0x00, 0x00, 0x00, 0x07])]) 0x29010020 (fun t => decide (t.status = .running ∧ t.pc = 0x84 ∧ t.reg 1 = 0x2A)) = true := by
  decide

/-- V-AR-13: MULR max*max. -/
theorem test_mulr_max_max :
    oneStep (bench [(2, 0xFFFFFFFF)] false []) 0x2A010202 (fun t => decide (t.status = .running ∧ t.pc = 0x84 ∧ t.reg 1 = 0x1)) = true := by
  decide

/-- V-AR-14: DIVI truncates. -/
theorem test_divi_truncates :
    oneStep (bench [(0, 0xA)] false []) 0x2C000003 (fun t => decide (t.status = .running ∧ t.pc = 0x84 ∧ t.reg 0 = 0x3)) = true := by
  decide

/-- V-AR-15: DIVI by zero (source example). -/
theorem test_divi_by_zero_source_example :
    oneStep (bench [(0, 0xA)] false []) 0x2C000000 (fun t => decide (t.status = .faulted ∧ t.reason = .divisionByZero ∧ t.pc = 0x80)) = true := by
  decide

/-- V-AR-16: DIVD. -/
theorem test_divd :
    oneStep (bench [(1, 0x64)] false [(0x10, [0x00, 0x00, 0x00, 0x07])]) 0x2D010010 (fun t => decide (t.status = .running ∧ t.pc = 0x84 ∧ t.reg 1 = 0xE)) = true := by
  decide

/-- V-AR-17: DIVD zero word. -/
theorem test_divd_zero_word :
    oneStep (bench [(1, 0x64)] false []) 0x2D010010 (fun t => decide (t.status = .faulted ∧ t.reason = .divisionByZero ∧ t.pc = 0x80)) = true := by
  decide

/-- V-AR-19: DIVR by zero register (source example). -/
theorem test_divr_by_zero_register_source_example :
    oneStep (bench [(0, 0x1), (1, 0x9)] false []) 0x2E000102 (fun t => decide (t.status = .faulted ∧ t.reason = .divisionByZero ∧ t.pc = 0x80)) = true := by
  decide

/-- V-AR-20: DIVR unsigned. -/
theorem test_divr_unsigned :
    oneStep (bench [(1, 0xFFFFFFFF), (2, 0x2)] false []) 0x2E000102 (fun t => decide (t.status = .running ∧ t.pc = 0x84 ∧ t.reg 0 = 0x7FFFFFFF)) = true := by
  decide

/-- V-CMP-1: EQI equal. -/
theorem test_eqi_equal :
    oneStep (bench [(0, 0x7A)] false []) 0x3000007A (fun t => decide (t.status = .running ∧ t.pc = 0x84 ∧ t.flag = true)) = true := by
  decide

/-- V-CMP-2: EQI literal is zero-extended. -/
theorem test_eqi_literal_is_zero_extended :
    oneStep (bench [(0, 0xFFFFFFFF)] true []) 0x3000FFFF (fun t => decide (t.status = .running ∧ t.pc = 0x84 ∧ t.flag = false)) = true := by
  decide

/-- V-CMP-3: NEQI. -/
theorem test_neqi :
    oneStep (bench [(0, 0x7B)] false []) 0x3400007A (fun t => decide (t.status = .running ∧ t.pc = 0x84 ∧ t.flag = true)) = true := by
  decide

/-- V-CMP-4: GTI unsigned. -/
theorem test_gti_unsigned :
    oneStep (bench [(0, 0xFFFFFFFF)] false []) 0x38000001 (fun t => decide (t.status = .running ∧ t.pc = 0x84 ∧ t.flag = true)) = true := by
  decide

/-- V-CMP-5: GTI equal is false. -/
theorem test_gti_equal_is_false :
    oneStep (bench [(0, 0x5)] true []) 0x38000005 (fun t => decide (t.status = .running ∧ t.pc = 0x84 ∧ t.flag = false)) = true := by
  decide

/-- V-CMP-6: GTEI equal. -/
theorem test_gtei_equal :
    oneStep (bench [(0, 0x5)] false []) 0x3C000005 (fun t => decide (t.status = .running ∧ t.pc = 0x84 ∧ t.flag = true)) = true := by
  decide

/-- V-CMP-7: LTI. -/
theorem test_lti :
    oneStep (bench [(0, 0x1)] false []) 0x4000FFFF (fun t => decide (t.status = .running ∧ t.pc = 0x84 ∧ t.flag = true)) = true := by
  decide

/-- V-CMP-8: LTI 0 < 0 false. -/
theorem test_lti_0_0_false :
    oneStep (bench [] true []) 0x40000000 (fun t => decide (t.status = .running ∧ t.pc = 0x84 ∧ t.flag = false)) = true := by
  decide

/-- V-CMP-9: LTEI. -/
theorem test_ltei :
    oneStep (bench [(0, 0x5)] false []) 0x44000005 (fun t => decide (t.status = .running ∧ t.pc = 0x84 ∧ t.flag = true)) = true := by
  decide

/-- V-CMP-10: EQD word. -/
theorem test_eqd_word :
    oneStep (bench [(1, 0x7A)] false [(0x10, [0x00, 0x00, 0x00, 0x7A])]) 0x31010010 (fun t => decide (t.status = .running ∧ t.pc = 0x84 ∧ t.flag = true)) = true := by
  decide

/-- V-CMP-11: EQD byte vs word. -/
theorem test_eqd_byte_vs_word :
    oneStep (bench [(1, 0x7A)] false [(0x10, [0x7A])]) 0x31010010 (fun t => decide (t.status = .running ∧ t.pc = 0x84 ∧ t.flag = false)) = true := by
  decide

/-- V-CMP-12: GTD OOB: flag unchanged. -/
theorem test_gtd_oob_flag_unchanged :
    oneStep (bench [] true []) 0x390100FD (fun t => decide (t.status = .faulted ∧ t.reason = .outOfBounds ∧ t.pc = 0x80)) = true := by
  decide

/-- V-CMP-13: EQR same register. -/
theorem test_eqr_same_register :
    oneStep (bench [(2, 0x9)] false []) 0x32020002 (fun t => decide (t.status = .running ∧ t.pc = 0x84 ∧ t.flag = true)) = true := by
  decide

/-- V-CMP-14: LTR unsigned. -/
theorem test_ltr_unsigned :
    oneStep (bench [(2, 0x7FFFFFFF), (3, 0x80000000)] false []) 0x42020003 (fun t => decide (t.status = .running ∧ t.pc = 0x84 ∧ t.flag = true)) = true := by
  decide

/-- V-CMP-15: GTER. -/
theorem test_gter :
    oneStep (bench [(2, 0x1), (3, 0x2)] true []) 0x3E020003 (fun t => decide (t.status = .running ∧ t.pc = 0x84 ∧ t.flag = false)) = true := by
  decide

/-- V-CMP-16: LTER. -/
theorem test_lter :
    oneStep (bench [(2, 0x2), (3, 0x2)] false []) 0x46020003 (fun t => decide (t.status = .running ∧ t.pc = 0x84 ∧ t.flag = true)) = true := by
  decide

/-- V-CMP-17: NEQR. -/
theorem test_neqr :
    oneStep (bench [(2, 0x2), (3, 0x3)] false []) 0x36020003 (fun t => decide (t.status = .running ∧ t.pc = 0x84 ∧ t.flag = true)) = true := by
  decide

/-- V-CMP-18: GTR. -/
theorem test_gtr :
    oneStep (bench [(2, 0x3), (3, 0x2)] false []) 0x3A020003 (fun t => decide (t.status = .running ∧ t.pc = 0x84 ∧ t.flag = true)) = true := by
  decide

/-- V-CT-1: JMPI. -/
theorem test_jmpi :
    oneStep (bench [] false []) 0x48000040 (fun t => decide (t.status = .running ∧ t.pc = 0x40)) = true := by
  decide

/-- V-CT-2: JMPI to max 24-bit (faults next fetch). -/
theorem test_jmpi_to_max_24_bit_faults_next_fetch :
    oneStep (bench [] false []) 0x48FFFFFF (fun t => decide (t.status = .running ∧ t.pc = 0xFFFFFF)) = true := by
  decide

/-- V-CT-3: JMPD memory-indirect. -/
theorem test_jmpd_memory_indirect :
    oneStep (bench [] false [(0x10, [0x00, 0x00, 0x00, 0x48])]) 0x49000010 (fun t => decide (t.status = .running ∧ t.pc = 0x48)) = true := by
  decide

/-- V-CT-4: JMPD pointer OOB. -/
theorem test_jmpd_pointer_oob :
    oneStep (bench [] false []) 0x490000FE (fun t => decide (t.status = .faulted ∧ t.reason = .outOfBounds ∧ t.pc = 0x80)) = true := by
  decide

/-- V-CT-5: JMPR. -/
theorem test_jmpr :
    oneStep (bench [(5, 0x2C)] false []) 0x4A000005 (fun t => decide (t.status = .running ∧ t.pc = 0x2C)) = true := by
  decide

/-- V-CT-6: JMPR beyond memory (fault comes next cycle). -/
theorem test_jmpr_beyond_memory_fault_comes_next_cycle :
    oneStep (bench [(5, 0x1000)] false []) 0x4A000005 (fun t => decide (t.status = .running ∧ t.pc = 0x1000)) = true := by
  decide

/-- V-CT-8: JMPEI taken. -/
theorem test_jmpei_taken :
    oneStep (bench [] true []) 0x4C000040 (fun t => decide (t.status = .running ∧ t.pc = 0x40)) = true := by
  decide

/-- V-CT-9: JMPEI not taken. -/
theorem test_jmpei_not_taken :
    oneStep (bench [] false []) 0x4C000040 (fun t => decide (t.status = .running ∧ t.pc = 0x84)) = true := by
  decide

/-- V-CT-10: JMPED not taken with OOB pointer: no fault. -/
theorem test_jmped_not_taken_with_oob_pointer_no_fault :
    oneStep (bench [] false []) 0x4D0000FE (fun t => decide (t.status = .running ∧ t.pc = 0x84)) = true := by
  decide

/-- V-CT-11: JMPED taken with OOB pointer. -/
theorem test_jmped_taken_with_oob_pointer :
    oneStep (bench [] true []) 0x4D0000FE (fun t => decide (t.status = .faulted ∧ t.reason = .outOfBounds ∧ t.pc = 0x80)) = true := by
  decide

/-- V-CT-12: JMPER taken. -/
theorem test_jmper_taken :
    oneStep (bench [(5, 0x2C)] true []) 0x4E000005 (fun t => decide (t.status = .running ∧ t.pc = 0x2C)) = true := by
  decide

/-- V-CT-13: JMPNEI taken. -/
theorem test_jmpnei_taken :
    oneStep (bench [] false []) 0x50000040 (fun t => decide (t.status = .running ∧ t.pc = 0x40)) = true := by
  decide

/-- V-CT-14: JMPNEI not taken. -/
theorem test_jmpnei_not_taken :
    oneStep (bench [] true []) 0x50000040 (fun t => decide (t.status = .running ∧ t.pc = 0x84)) = true := by
  decide

/-- V-CT-15: JMPNED taken. -/
theorem test_jmpned_taken :
    oneStep (bench [] false [(0x10, [0x00, 0x00, 0x00, 0x48])]) 0x51000010 (fun t => decide (t.status = .running ∧ t.pc = 0x48)) = true := by
  decide

/-- V-CT-16: JMPNER not taken. -/
theorem test_jmpner_not_taken :
    oneStep (bench [(5, 0x2C)] true []) 0x52000005 (fun t => decide (t.status = .running ∧ t.pc = 0x84)) = true := by
  decide

/-- V-SP-1: PRTSI. -/
theorem test_prtsi :
    oneStep (bench [] false [(0x0, [0x61, 0x00])]) 0x54000000 (fun t => decide (t.status = .running ∧ t.pc = 0x84 ∧ t.out = [[0x61]])) = true := by
  decide

/-- V-SP-4: PRTSI unterminated. -/
theorem test_prtsi_unterminated :
    oneStep (bench [] false [(0xFE, [0x41, 0x42])]) 0x540000FE (fun t => decide (t.status = .faulted ∧ t.reason = .unterminatedString ∧ t.pc = 0x80)) = true := by
  decide

/-- V-SP-6: PRTSD. -/
theorem test_prtsd :
    oneStep (bench [] false [(0x10, [0x00, 0x00, 0x00, 0x20]), (0x20, [0x68, 0x69, 0x00])]) 0x55000010 (fun t => decide (t.status = .running ∧ t.pc = 0x84 ∧ t.out = [[0x68, 0x69]])) = true := by
  decide

/-- V-SP-7: PRTSD pointer beyond memory. -/
theorem test_prtsd_pointer_beyond_memory :
    oneStep (bench [] false [(0x10, [0x00, 0x00, 0x01, 0x00])]) 0x55000010 (fun t => decide (t.status = .faulted ∧ t.reason = .outOfBounds ∧ t.pc = 0x80)) = true := by
  decide

/-- V-SP-8: PRTSR. -/
theorem test_prtsr :
    oneStep (bench [(4, 0x20)] false [(0x20, [0x68, 0x69, 0x00])]) 0x56000004 (fun t => decide (t.status = .running ∧ t.pc = 0x84 ∧ t.out = [[0x68, 0x69]])) = true := by
  decide

/-- V-SP-9: PRTSR register 0xFFFFFFFF. -/
theorem test_prtsr_register_0xffffffff :
    oneStep (bench [(4, 0xFFFFFFFF)] false []) 0x56000004 (fun t => decide (t.status = .faulted ∧ t.reason = .outOfBounds ∧ t.pc = 0x80)) = true := by
  decide

/-- R215: NEQD of equal words is false. -/
theorem test_neqd_of_equal_words_is_false :
    oneStep (bench [(1, 0x7A)] true [(0x10, [0x00, 0x00, 0x00, 0x7A])]) 0x35010010 (fun t => decide (t.status = .running ∧ t.pc = 0x84 ∧ t.flag = false)) = true := by
  decide

/-- R218: GTD of a larger register. -/
theorem test_gtd_of_a_larger_register :
    oneStep (bench [(1, 0x80000000)] false [(0x10, [0x7F, 0xFF, 0xFF, 0xFF])]) 0x39010010 (fun t => decide (t.status = .running ∧ t.pc = 0x84 ∧ t.flag = true)) = true := by
  decide

/-- R221: GTED of equal words. -/
theorem test_gted_of_equal_words :
    oneStep (bench [(1, 0x5)] false [(0x10, [0x00, 0x00, 0x00, 0x05])]) 0x3D010010 (fun t => decide (t.status = .running ∧ t.pc = 0x84 ∧ t.flag = true)) = true := by
  decide

/-- R224: LTD of a smaller register. -/
theorem test_ltd_of_a_smaller_register :
    oneStep (bench [(1, 0x4)] false [(0x10, [0x00, 0x00, 0x00, 0x05])]) 0x41010010 (fun t => decide (t.status = .running ∧ t.pc = 0x84 ∧ t.flag = true)) = true := by
  decide

/-- R227: LTED of a larger register is false. -/
theorem test_lted_of_a_larger_register_is_false :
    oneStep (bench [(1, 0x6)] true [(0x10, [0x00, 0x00, 0x00, 0x05])]) 0x45010010 (fun t => decide (t.status = .running ∧ t.pc = 0x84 ∧ t.flag = false)) = true := by
  decide

/-- R166: LDHR past the end. -/
theorem test_ldhr_past_the_end :
    oneStep (bench [(4, 0xFF)] false []) 0x0A050004 (fun t => decide (t.status = .faulted ∧ t.reason = .outOfBounds ∧ t.pc = 0x80)) = true := by
  decide

/-- R173: STRHR at 254. -/
theorem test_strhr_at_254 :
    oneStep (bench [(0, 0xABCD), (6, 0xFE)] false []) 0x16000006 (fun t => decide (t.status = .running ∧ t.pc = 0x84 ∧ t.mem.bytesFrom 0xFE 2 = [0xAB, 0xCD])) = true := by
  decide

/-- R248: JMPNED not taken with a pointer out of bounds. -/
theorem test_jmpned_not_taken_with_a_pointer_out_of_bounds :
    oneStep (bench [] true []) 0x510000FE (fun t => decide (t.status = .running ∧ t.pc = 0x84)) = true := by
  decide

/-- R249: JMPNER taken. -/
theorem test_jmpner_taken :
    oneStep (bench [(5, 0x2C)] false []) 0x52000005 (fun t => decide (t.status = .running ∧ t.pc = 0x2C)) = true := by
  decide

/-! ### Load, reset and the host's stop (95_test_vectors.md section 2.3) -/

/-- V-RST-1: a payload of 8 bytes, MEM_SIZE 4. -/
theorem test_load_oversized :
    (let s := State.load ⟨[], [0, 0, 0, 0, 0, 0, 0, 0], [], 0⟩ 4 8 [];
      s.status = .faulted ∧ s.reason = .outOfBounds ∧ s.pc = 0 ∧ s.mem.cells = [] ∧ s.mem.size = 4) := by
  decide

/-- V-RST-2. -/
theorem test_empty_code_fetches_zero :
    manySteps 1 (State.load ⟨[], [1], [], 1⟩ 256 8 [])
      (fun t => decide (t.status = .faulted ∧ t.reason = .illegalInstruction ∧ t.pc = 1)) = true := by
  decide

/-- V-RST-3. -/
theorem test_empty_code_no_room :
    manySteps 1 (State.load ⟨[], [1], [], 1⟩ 4 8 [])
      (fun t => decide (t.status = .faulted ∧ t.reason = .outOfBounds ∧ t.pc = 1)) = true := by
  decide

/-- V-RST-4. -/
theorem test_payload_fills_memory :
    manySteps 1 (State.load ⟨[], [], [0x58000000], 0⟩ 4 8 []) (fun t => decide (t.status = .halted ∧ t.pc = 0)) = true := by
  decide

/-- V-RST-5. -/
theorem test_unaligned_entry :
    manySteps 1 (State.load ⟨[], [1], [0x58000000], 1⟩ 5 8 []) (fun t => decide (t.status = .halted ∧ t.pc = 1)) = true := by
  decide

/-- V-RST-6. -/
theorem test_stop_in_first_cycle :
    manySteps 1 (State.load ⟨[], [], [0x48000000], 0⟩ 256 8 [true])
      (fun t => decide (t.status = .cancelled ∧ t.reason = .none ∧ t.pc = 0)) = true := by
  decide

/-- V-RST-7: a step budget of one cycle. -/
theorem test_stop_in_second_cycle :
    manySteps 2 (State.load ⟨[], [], [0x48000000], 0⟩ 256 8 (budgetStop 1))
      (fun t => decide (t.status = .cancelled ∧ t.pc = 0)) = true := by
  decide

/-- R271: the numeric codes. -/
theorem test_codes :
    [Status.running, .halted, .faulted, .cancelled].map statusCode = [0, 1, 2, 3] ∧
    [Reason.none, .illegalInstruction, .outOfBounds, .divisionByZero, .unterminatedString].map reasonCode = [0, 1, 2, 3, 4] := by
  decide

/-- R31: no final state while Running, the tuple once terminal. -/
theorem test_final_state :
    State.reset.final = none ∧
    State.reset.halt.final = some ⟨.halted, .none, List.replicate 8 0, false, ⟨256, []⟩, 0, []⟩ := by
  decide

/-! ### The assembler (95_test_vectors.md section 2.4) -/

/-- A-1: the padding is 3 bytes. -/
theorem test_assemble_align :
    assemblesTo [dir none "data" [], dir none "byte" [.num 1], dir none "align" [.num 2], dir (some "x") "byte" [.num 2]]
      [1, 0, 0, 0, 2] [] = true := by
  decide

/-- A-3: a code label is the data length plus the code cursor. -/
theorem test_assemble_labels :
    assemblesTo [dir none "data" [], dir none "byte" [.num 7], dir none "code" [], ins (some "s") "LDI" [.reg 0, .num 1],
      ins none "JMPI" [.label "s"], ins none "HLT" []] [7] [0x04000001, 0x48000001, 0x58000000] = true := by
  decide

/-- A-2, A-4, A-5: big-endian values; strings are not shared. -/
theorem test_assemble_data :
    assemblesTo [dir none "half" [.num 0x1234], dir none "align" [.num 1], dir none "byte" [.num 9],
      dir none "asciiz" [.text [0x68, 0x69]], dir none "asciiz" [.text [0x68, 0x69]], dir none "word" [.num 0x11223344, .num 5]]
      [0x12, 0x34, 9, 0x68, 0x69, 0, 0x68, 0x69, 0, 0x11, 0x22, 0x33, 0x44, 0, 0, 0, 5] [] = true := by
  decide

/-- A-10, A-14, A-15, A-16: the suffix alone decides the mode; a forward reference; an index that fits its field. -/
theorem test_assemble_suffix_decides :
    assemblesTo [dir none "code" [], ins none "LDD" [.reg 0, .num 0x20], ins none "LDI" [.reg 0, .num 0x20],
      ins none "JMPI" [.label "fwd"], ins none "LDI" [.reg 9, .num 1], ins none "LDBI" [.reg 0, .chr 0x61], ins (some "fwd") "HLT" []]
      [] [0x05000020, 0x04000020, 0x48000014, 0x04090001, 0x0C000061, 0x58000000] = true := by
  decide

/-- A-6, A-7, A-8, A-9, A-13, and a mnemonic that is none (R99). -/
theorem test_assemble_operand_errors :
    failsWith [dir none "code" [], ins none "LDI" [.reg 0, .num 0x10000]] .operandOutOfRange 2 = true ∧
    failsWith [dir none "code" [], ins none "JMPI" [.num 0x1000000]] .operandOutOfRange 2 = true ∧
    failsWith [dir none "code" [], ins none "ADDR" [.reg 0, .num 5, .reg 1]] .suffixMismatch 2 = true ∧
    failsWith [dir none "code" [], ins none "LDI" [.reg 0, .reg 1]] .suffixMismatch 2 = true ∧
    failsWith [dir none "code" [], ins none "JMPI" [.label "nowhere"]] .undefinedLabel 2 = true ∧
    failsWith [dir none "code" [], ins none "STRI" [.reg 0, .num 1]] .unknownMnemonic 2 = true := by
  decide

/-- A-11, A-12, A-17, an instruction in the data section, a directive that is none. -/
theorem test_assemble_line_errors :
    failsWith [dir none "align" [.num 32]] .badAlignment 1 = true ∧
    failsWith [dir (some "a") "byte" [.num 1], dir (some "a") "byte" [.num 2]] .duplicateLabel 2 = true ∧
    failsWith [dir none "code" [], dir none "byte" [.num 1]] .badSyntax 2 = true ∧
    failsWith [ins none "HLT" []] .badSyntax 1 = true ∧
    failsWith [dir none "org" [.num 1]] .unknownDirective 1 = true := by
  decide

/-- R97: codes 1 and 127 are characters, 0 and 128 are none, in a literal and in a string; a string holds no quote. -/
theorem test_assemble_characters :
    assemblesTo [dir none "byte" [.chr 1, .chr 127], dir none "ascii" [.text [1, 127, 0x21, 0x23]]] [1, 127, 1, 127, 0x21, 0x23] [] = true ∧
    failsWith [dir none "byte" [.chr 0]] .badSyntax 1 = true ∧
    failsWith [dir none "byte" [.chr 128]] .badSyntax 1 = true ∧
    failsWith [dir none "ascii" [.text [0x22]]] .badSyntax 1 = true ∧
    failsWith [dir none "asciiz" [.text [0x61, 0]]] .badSyntax 1 = true ∧
    failsWith [dir none "ascii" [.text [128]]] .badSyntax 1 = true ∧
    failsWith [dir none "code" [], ins none "LDI" [.reg 0, .chr 128]] .badSyntax 2 = true := by
  decide

/-- Log 13: a label that leads a switch belongs to the section before it. -/
theorem test_assemble_label_on_switch :
    assemblesTo [dir none "byte" [.num 7], dir (some "d") "code" [], ins none "LDI" [.reg 0, .label "d"],
      dir (some "c") "data" [], dir none "byte" [.num 8], dir none "code" [], ins none "JMPI" [.label "c"]] [7, 8] [0x04000001, 0x48000006] = true := by
  decide

/-! ### Hypotheses met: a witness for each statement that has them -/

/-- A state whose registers hold the addresses at the edges of its 256 bytes; the word at 252 is 7. -/
def edge : State :=
  bench [(2, 7), (3, 252), (4, 253), (5, 254), (6, 255), (7, 256)] false [(252, [0, 0, 0, 7])]

/-- What is answered is a next state of a status. -/
def goes (o : Result) (status : Status) : Bool :=
  match o with
  | .next t => decide (t.status = status)
  | .fault _ => false
  | .refused _ => false

/-- A state with bytes at pc 252, its last word. -/
def atEnd (bytes : List Byte) : State := { bench [] false [(252, bytes)] with pc := 252 }

/-- The second clause, with unused bits set, and without. -/
theorem witness_EncodeDecodeRoundTrip :
    decodeWord 0x1C0700FF = .instr (.mov 7 0) ∧
    Instr.mov 7 0 ≠ .igl ∧
    decodeWord 0x58FFFFFF = .instr .hlt ∧
    decodeWord 0x46FFFFFF = .instr (.lter 0xFF 0xFFFF) := by
  decide

/-- Legal pairs at the edges: opcodes 1 and 22, mode 2, a store of mode 1. -/
theorem witness_IllegalWordsExactly :
    ¬ IllegalPair ((0x04000000#32).toNat / 2 ^ 26) ((0x04000000#32).toNat / 2 ^ 24 % 4) ∧
    ¬ IllegalPair ((0x58000000#32).toNat / 2 ^ 26) ((0x58000000#32).toNat / 2 ^ 24 % 4) ∧
    ¬ IllegalPair ((0x56FFFFFF#32).toNat / 2 ^ 26) ((0x56FFFFFF#32).toNat / 2 ^ 24 % 4) ∧
    ¬ IllegalPair ((0x11000000#32).toNat / 2 ^ 26) ((0x11000000#32).toNat / 2 ^ 24 % 4) := by
  decide

/-- The last word of memory, an instruction and an illegal word. -/
theorem witness_StepRunsDecodedInstruction :
    (let s := atEnd [0x58, 0, 0, 0];
      s.status = .running ∧ s.stopSampled = false ∧ s.pc.toNat + 4 ≤ s.mem.size ∧
      decode [s.mem.byte s.pc.toNat, s.mem.byte (s.pc.toNat + 1), s.mem.byte (s.pc.toNat + 2),
        s.mem.byte (s.pc.toNat + 3)] = .instr .hlt) ∧
    (let s := atEnd [0xFF, 0, 0, 0];
      s.status = .running ∧ s.stopSampled = false ∧ s.pc.toNat + 4 ≤ s.mem.size ∧
      decode [s.mem.byte s.pc.toNat, s.mem.byte (s.pc.toNat + 1), s.mem.byte (s.pc.toNat + 2),
        s.mem.byte (s.pc.toNat + 3)] = .illegal .unassignedOpcode) := by
  decide

/-- STOP true in the coming cycle. -/
theorem witness_StopSampledBeforeFetch :
    (let s : State := { State.reset with stop := [true] };
      s.status = .running ∧ s.stopSampled = true) := by
  decide

/-- pc one past the last word; a jump to that address. -/
theorem witness_FetchOutOfBoundsFaults :
    (let s : State := { edge with pc := 253 };
      s.status = .running ∧ s.stopSampled = false ∧ s.mem.size < s.pc.toNat + 4) ∧
    ((4#24).toNat < edge.numRegs ∧ edge.mem.size < (edge.reg (4#24).toNat).toNat + 4) ∧
    edge.status = .running ∧ edge.stopSampled = false := by
  decide

/-- A running state without reason, its word illegal. -/
theorem witness_IllegalInstructionByWordAlone :
    State.reset.status = .running ∧ State.reset.reason ≠ .illegalInstruction ∧
    IllegalPair (memNat State.reset.mem State.reset.pc.toNat 4 / 2 ^ 26) (memNat State.reset.mem State.reset.pc.toNat 4 / 2 ^ 24 % 4) ∧
    manySteps 1 State.reset (fun t => decide (t.reason = .illegalInstruction)) = true := by
  decide

/-- NUM_REGS itself as an index, of a jump that is not taken too. -/
theorem witness_RegisterCheckPrecedesExecution :
    ¬ (Instr.jmper 8).WellFormed edge.numRegs ∧
    edge.flag = false ∧
    ¬ (Instr.addr 0 0 8).WellFormed edge.numRegs := by
  decide

/-- A running state whose step faults, and an instruction that answers a next state. -/
theorem witness_FaultsArePrecise :
    State.reset.status = .running ∧
    manySteps 1 State.reset (fun t => decide (t.status = .faulted)) = true ∧
    goes (exec (.strd 2 252) edge) .running ∧ storeTarget (.strd 2 252) edge = some (252, 4) ∧ destReg (.strd 2 252) = none ∧
    goes (exec (.strhr 2 5) edge) .running ∧ storeTarget (.strhr 2 5) edge = some (254, 2) ∧
    goes (exec (.ldbr 7 6) edge) .running ∧ destReg (.ldbr 7 6) = some 7 ∧ storeTarget (.ldbr 7 6) edge = none ∧
    goes (exec (.eqi 2 7) edge) .running ∧ destReg (.eqi 2 7) = none ∧
    goes (exec (.prtsi 251) edge) .running ∧ instrOpcode (.prtsi 251) = 21 := by
  decide

/-- Instructions next to the comparisons, and the first and the last comparison. -/
theorem witness_OnlyComparisonsWriteFlag :
    goes (exec (.divi 2 1) edge) .running ∧ ¬ (12 ≤ instrOpcode (.divi 2 1) ∧ instrOpcode (.divi 2 1) ≤ 17) ∧
    goes (exec (.jmpi 0) edge) .running ∧ ¬ (12 ≤ instrOpcode (.jmpi 0) ∧ instrOpcode (.jmpi 0) ≤ 17) ∧
    edge.status = .running ∧
    goes (exec (.eqi 2 7) edge) .running ∧ 12 ≤ instrOpcode (.eqi 2 7) ∧ instrOpcode (.eqi 2 7) ≤ 17 ∧
    goes (exec (.lter 2 2) edge) .running ∧ 12 ≤ instrOpcode (.lter 2 2) ∧ instrOpcode (.lter 2 2) ≤ 17 := by
  decide

/-- A jump that is not conditional, and a print. -/
theorem witness_FlagReadOnlyByConditionalJumps :
    instrOpcode (.jmpi 0) ≠ 19 ∧ instrOpcode (.jmpi 0) ≠ 20 ∧ goes (exec (.jmpi 0) edge) .running ∧
    instrOpcode (.prtsi 0) ≠ 19 ∧ instrOpcode (.prtsi 0) ≠ 20 ∧ goes (exec (.prtsi 0) edge) .running := by
  decide

/-- An instruction that answers a next state, PRTS or not. -/
theorem witness_OnlyPrtsEmits :
    goes (exec (.prtsi 251) edge) .running = true ∧
    goes (exec (.mov 2 3) edge) .running = true := by
  decide

/-- An instruction that answers a next state and is no store. -/
theorem witness_OnlyStoresChangeMemory :
    goes (exec (.mov 2 3) edge) .running ∧ ¬ (4 ≤ instrOpcode (.mov 2 3) ∧ instrOpcode (.mov 2 3) ≤ 6) ∧
    goes (exec (.ldbi 2 3) edge) .running ∧ ¬ (4 ≤ instrOpcode (.ldbi 2 3) ∧ instrOpcode (.ldbi 2 3) ≤ 6) := by
  decide

/-- Clause by clause: a fault, HLT, no jump, JMPE and JMPNE not taken and taken, JMP. -/
theorem witness_PcAfterInstruction :
    edge.status = .running ∧
    goes (exec (.divi 2 0) edge) .faulted = true ∧
    goes (exec .hlt edge) .halted = true ∧
    goes (exec (.ldi 2 0) edge) .running ∧ ¬ (18 ≤ instrOpcode (.ldi 2 0) ∧ instrOpcode (.ldi 2 0) ≤ 20) ∧
    goes (exec (.jmpei 0) edge) .running ∧ instrOpcode (.jmpei 0) = 19 ∧ edge.flag = false ∧
    goes (exec (.jmpnei 0) (edge.setFlag true)) .running ∧ instrOpcode (.jmpnei 0) = 20 ∧ (edge.setFlag true).flag = true ∧
    goes (exec (.jmped 252) (edge.setFlag true)) .running ∧ instrOpcode (.jmped 252) = 19 ∧
    goes (exec (.jmpner 7) edge) .running ∧ instrOpcode (.jmpner 7) = 20 ∧
    goes (exec (.jmpr 7) edge) .running ∧ instrOpcode (.jmpr 7) = 18 := by
  decide

/-- A register between the named ones, and one past the file. -/
theorem witness_UnnamedRegistersDoNotMatter :
    1 ∉ (Instr.addr 0 2 3).regIndices ∧ 8 ∉ (Instr.addr 0 2 3).regIndices ∧
    goes (exec (.addr 0 2 3) edge) .running = true := by
  decide

/-- A state that meets the invariant, with memory listed, and steps. -/
theorem witness_StepKeepsInvariant :
    edge.Inv ∧
    goes (step edge) .faulted = true ∧
    (atEnd [0x58, 0, 0, 0]).Inv ∧
    goes (step (atEnd [0x58, 0, 0, 0])) .halted = true := by
  decide

/-- A payload that fills memory and one a byte longer; the first data byte and code word. -/
theorem witness_LoadBuildsResetState :
    [(1 : Byte)].length + 4 * [(0x58000000 : Word)].length ≤ 5 ∧
    4 < [(1 : Byte)].length + 4 * [(0x58000000 : Word)].length ∧
    0 < [(1 : Byte)].length ∧ 0 < [(0x58000000 : Word)].length := by
  decide

/-- The parameters at the ends of their ranges. -/
theorem witness_LoadMeetsInvariant :
    Config.NumRegsOK 8 ∧ Config.NumRegsOK 256 ∧
    Config.MemSizeOK 1 ∧ Config.MemSizeOK 4294967295 := by
  decide

/-- A run of two steps of a loaded image. -/
theorem witness_ReachableFromLoad :
    Config.NumRegsOK 8 ∧ Config.MemSizeOK 5 ∧
    goes (runSteps 2 (State.load ⟨[], [1], [0x48000001], 1⟩ 5 8 [])) .running = true := by
  decide

/-- MEM_SIZE exactly four bytes past the data, and a byte less. -/
theorem witness_EmptyCodeSectionFaults :
    (⟨[], [1], [], 1⟩ : Image).code = [] ∧ (1#32).toNat = [(1 : Byte)].length ∧
    [(1 : Byte)].length ≤ 5 ∧ [(1 : Byte)].length + 4 ≤ 5 ∧
    [(1 : Byte)].length ≤ 4 ∧ 4 < [(1 : Byte)].length + 4 := by
  decide

/-- The last address of each width, and the first past it. -/
theorem witness_MemWriteBytes :
    edge.mem.size = 256 ∧
    252 + widthBytes .word ≤ 256 ∧ 256 < 253 + widthBytes .word ∧
    254 + widthBytes .half ≤ 256 ∧ 256 < 255 + widthBytes .half ∧
    255 + widthBytes .byte ≤ 256 ∧ 256 < 256 + widthBytes .byte := by
  decide

/-- Neighbouring accesses on both sides, and both ends of k for halves and bytes. -/
theorem witness_LoadAfterStore :
    12 + widthBytes .word ≤ 16 ∧
    16 + widthBytes .word ≤ 20 ∧
    0 < 3 ∧ 2 < 3 ∧
    0 < 4 ∧ 3 < 4 := by
  decide

/-- Two memories in the form that read the same: a byte written and written back. -/
theorem witness_CanonicalMemoriesEqual :
    (⟨4, [(1, 7)]⟩ : Memory).wf = true ∧
    ((Memory.setByte ⟨4, [(1, 7)]⟩ 0 1).setByte 0 0).wf = true ∧
    ((Memory.setByte ⟨4, [(1, 7)]⟩ 0 1).setByte 0 0).size = 4 ∧
    (List.range 4).all (fun a => decide ((⟨4, [(1, 7)]⟩ : Memory).byte a =
      ((Memory.setByte ⟨4, [(1, 7)]⟩ 0 1).setByte 0 0).byte a)) = true := by
  decide

/-- A store of each opcode; HLT stored just after the store, at the last word of memory. -/
theorem witness_StoredInstructionIsFetched :
    instrOpcode (.strd 0 0) = 4 ∧ goes (exec (.strd 0 0) edge) .running ∧
    instrOpcode (.strhr 0 5) = 5 ∧ goes (exec (.strhr 0 5) edge) .running ∧
    instrOpcode (.strbd 0 255) = 6 ∧ goes (exec (.strbd 0 255) edge) .running ∧
    (let s : State := { bench [(0, 0x58000000)] false [] with pc := 248 };
      s.status = .running ∧ s.stopSampled = false ∧ 0 < s.numRegs ∧ (252#16).toNat + 4 ≤ s.mem.size ∧
      (252#16).toNat = s.pc.toNat + 4 ∧ s.reg 0 = encode .hlt) := by
  decide

/-- A running state about to be cancelled, and one about to halt. -/
theorem witness_RunningStatesStep :
    State.reset.status = .running ∧
    ({ State.reset with stop := [true] } : State).stopSampled = true ∧
    (let s := atEnd [0x58, 0, 0, 0];
      s.status = .running ∧ s.stopSampled = false ∧ s.pc.toNat + 4 ≤ s.mem.size ∧
      memNat s.mem s.pc.toNat 4 / 2 ^ 24 = 0x58) := by
  decide

/-- Each terminal status. -/
theorem witness_TerminalStatesHaveNoStep :
    State.reset.halt.status ≠ .running ∧
    State.reset.cancel.status ≠ .running ∧
    (State.reset.raise .outOfBounds).status ≠ .running := by
  decide

/-- A loop under a budget of one cycle, still running after it. -/
theorem witness_BudgetEndsEveryRun :
    (let s : State := State.load ⟨[], [], [0x48000000], 0⟩ 256 8 (budgetStop 1);
      s.status = .running ∧ s.stop = budgetStop 1 ∧ goes (runSteps 1 s) .running = true) ∧
    (let s : State := State.load ⟨[], [], [0x48000000], 0⟩ 256 8 (budgetStop 0);
      s.status = .running ∧ s.stop = budgetStop 0) := by
  decide

/-- Each clause at the edge of its range, and what it answers there. -/
theorem witness_LoadWordInstructions :
    (7#8).toNat < edge.numRegs ∧ edge.numRegs ≤ (8#8).toNat ∧
    (7#16).toNat < edge.numRegs ∧ edge.numRegs ≤ (8#16).toNat ∧
    (252#16).toNat + 4 ≤ edge.mem.size ∧ edge.mem.size < (253#16).toNat + 4 ∧
    (edge.reg 3).toNat + 4 ≤ edge.mem.size ∧ edge.mem.size < (edge.reg 4).toNat + 4 ∧
    goes (exec (.ldi 7 0xFFFF) edge) .running ∧ goes (exec (.ldi 8 0) edge) .faulted ∧
    goes (exec (.ldd 7 252) edge) .running ∧ goes (exec (.ldd 7 253) edge) .faulted ∧
    goes (exec (.ldr 7 3) edge) .running ∧ goes (exec (.ldr 7 4) edge) .faulted ∧
      goes (exec (.ldr 7 8) edge) .faulted := by
  decide

/-- Each clause at the edge of its range, and what it answers there. -/
theorem witness_LoadHalfInstructions :
    (7#8).toNat < edge.numRegs ∧ edge.numRegs ≤ (8#8).toNat ∧
    (7#16).toNat < edge.numRegs ∧ edge.numRegs ≤ (8#16).toNat ∧
    (254#16).toNat + 2 ≤ edge.mem.size ∧ edge.mem.size < (255#16).toNat + 2 ∧
    (edge.reg 5).toNat + 2 ≤ edge.mem.size ∧ edge.mem.size < (edge.reg 6).toNat + 2 ∧
    goes (exec (.ldhi 7 0xFFFF) edge) .running ∧ goes (exec (.ldhi 8 0) edge) .faulted ∧
    goes (exec (.ldhd 7 254) edge) .running ∧ goes (exec (.ldhd 7 255) edge) .faulted ∧
    goes (exec (.ldhr 7 5) edge) .running ∧ goes (exec (.ldhr 7 6) edge) .faulted ∧
      goes (exec (.ldhr 7 8) edge) .faulted := by
  decide

/-- Each clause at the edge of its range, and what it answers there. -/
theorem witness_LoadByteInstructions :
    (7#8).toNat < edge.numRegs ∧ edge.numRegs ≤ (8#8).toNat ∧
    (7#16).toNat < edge.numRegs ∧ edge.numRegs ≤ (8#16).toNat ∧
    (255#16).toNat + 1 ≤ edge.mem.size ∧ edge.mem.size < (256#16).toNat + 1 ∧
    (edge.reg 6).toNat + 1 ≤ edge.mem.size ∧ edge.mem.size < (edge.reg 7).toNat + 1 ∧
    goes (exec (.ldbi 7 0xFFFF) edge) .running ∧ goes (exec (.ldbi 8 0) edge) .faulted ∧
    goes (exec (.ldbd 7 255) edge) .running ∧ goes (exec (.ldbd 7 256) edge) .faulted ∧
    goes (exec (.ldbr 7 6) edge) .running ∧ goes (exec (.ldbr 7 7) edge) .faulted ∧
      goes (exec (.ldbr 7 8) edge) .faulted := by
  decide

/-- Each clause at the edge of its range, and what it answers there. -/
theorem witness_StoreWordInstructions :
    (7#8).toNat < edge.numRegs ∧ edge.numRegs ≤ (8#8).toNat ∧
    (7#16).toNat < edge.numRegs ∧ edge.numRegs ≤ (8#16).toNat ∧
    (eaDirect 252).toNat + 4 ≤ edge.mem.size ∧ edge.mem.size < (253#16).toNat + 4 ∧
    (eaRegister 3 edge).toNat + 4 ≤ edge.mem.size ∧ edge.mem.size < (edge.reg 4).toNat + 4 ∧
    goes (exec (.strd 7 252) edge) .running ∧ goes (exec (.strd 7 253) edge) .faulted ∧
    goes (exec (.strr 7 3) edge) .running ∧ goes (exec (.strr 7 4) edge) .faulted := by
  decide

/-- Each clause at the edge of its range, and what it answers there. -/
theorem witness_StoreHalfInstructions :
    (7#8).toNat < edge.numRegs ∧ edge.numRegs ≤ (8#8).toNat ∧
    (7#16).toNat < edge.numRegs ∧ edge.numRegs ≤ (8#16).toNat ∧
    (eaDirect 254).toNat + 2 ≤ edge.mem.size ∧ edge.mem.size < (255#16).toNat + 2 ∧
    (eaRegister 5 edge).toNat + 2 ≤ edge.mem.size ∧ edge.mem.size < (edge.reg 6).toNat + 2 ∧
    goes (exec (.strhd 7 254) edge) .running ∧ goes (exec (.strhd 7 255) edge) .faulted ∧
    goes (exec (.strhr 7 5) edge) .running ∧ goes (exec (.strhr 7 6) edge) .faulted := by
  decide

/-- Each clause at the edge of its range, and what it answers there. -/
theorem witness_StoreByteInstructions :
    (7#8).toNat < edge.numRegs ∧ edge.numRegs ≤ (8#8).toNat ∧
    (7#16).toNat < edge.numRegs ∧ edge.numRegs ≤ (8#16).toNat ∧
    (eaDirect 255).toNat + 1 ≤ edge.mem.size ∧ edge.mem.size < (256#16).toNat + 1 ∧
    (eaRegister 6 edge).toNat + 1 ≤ edge.mem.size ∧ edge.mem.size < (edge.reg 7).toNat + 1 ∧
    goes (exec (.strbd 7 255) edge) .running ∧ goes (exec (.strbd 7 256) edge) .faulted ∧
    goes (exec (.strbr 7 6) edge) .running ∧ goes (exec (.strbr 7 7) edge) .faulted := by
  decide

/-- The last register and the first index past it; the first and last words of the illegal modes. -/
theorem witness_MoveInstruction :
    (7#8).toNat < edge.numRegs ∧ edge.numRegs ≤ (8#8).toNat ∧
    0x1D ≤ (0x1D000000#32).toNat / 2 ^ 24 ∧ (0x1FFFFFFF#32).toNat / 2 ^ 24 ≤ 0x1F ∧
    goes (exec (.mov 7 7) edge) .running ∧ goes (exec (.mov 7 8) edge) .faulted := by
  decide

/-- Each clause at the edge of its range, and what it answers there. -/
theorem witness_AddInstructions :
    (7#8).toNat < edge.numRegs ∧ edge.numRegs ≤ (8#8).toNat ∧
    (252#16).toNat + 4 ≤ edge.mem.size ∧ edge.mem.size < (253#16).toNat + 4 ∧
    goes (exec (.addi 7 0xFFFF) edge) .running ∧ goes (exec (.addi 8 0) edge) .faulted ∧
    goes (exec (.addd 7 252) edge) .running ∧ goes (exec (.addd 7 253) edge) .faulted ∧
    goes (exec (.addr 7 7 7) edge) .running ∧ goes (exec (.addr 7 7 8) edge) .faulted := by
  decide

/-- Each clause at the edge of its range, and what it answers there. -/
theorem witness_SubtractInstructions :
    (7#8).toNat < edge.numRegs ∧ edge.numRegs ≤ (8#8).toNat ∧
    (252#16).toNat + 4 ≤ edge.mem.size ∧ edge.mem.size < (253#16).toNat + 4 ∧
    goes (exec (.subi 7 0xFFFF) edge) .running ∧ goes (exec (.subi 8 0) edge) .faulted ∧
    goes (exec (.subd 7 252) edge) .running ∧ goes (exec (.subd 7 253) edge) .faulted ∧
    goes (exec (.subr 7 7 7) edge) .running ∧ goes (exec (.subr 7 7 8) edge) .faulted := by
  decide

/-- Each clause at the edge of its range, and what it answers there. -/
theorem witness_MultiplyInstructions :
    (7#8).toNat < edge.numRegs ∧ edge.numRegs ≤ (8#8).toNat ∧
    (252#16).toNat + 4 ≤ edge.mem.size ∧ edge.mem.size < (253#16).toNat + 4 ∧
    goes (exec (.muli 7 0xFFFF) edge) .running ∧ goes (exec (.muli 8 0) edge) .faulted ∧
    goes (exec (.muld 7 252) edge) .running ∧ goes (exec (.muld 7 253) edge) .faulted ∧
    goes (exec (.mulr 7 7 7) edge) .running ∧ goes (exec (.mulr 7 7 8) edge) .faulted := by
  decide

/-- Each clause at the edge of its range: divisors 1 and 0, the word 7 at 252 and the word 0 at 0. -/
theorem witness_DivideInstructions :
    (7#8).toNat < edge.numRegs ∧ edge.numRegs ≤ (8#8).toNat ∧
    (252#16).toNat + 4 ≤ edge.mem.size ∧ edge.mem.size < (253#16).toNat + 4 ∧
    (1#16).toNat ≠ 0 ∧ memNat edge.mem (252#16).toNat 4 ≠ 0 ∧ edge.reg 7 ≠ 0 ∧
    (0#16).toNat + 4 ≤ edge.mem.size ∧ memNat edge.mem (0#16).toNat 4 = 0 ∧ edge.reg 0 = 0 ∧
    goes (exec (.divi 7 1) edge) .running ∧ goes (exec (.divi 7 0) edge) .faulted ∧
    goes (exec (.divd 7 252) edge) .running ∧ goes (exec (.divd 7 0) edge) .faulted ∧ goes (exec (.divd 7 253) edge) .faulted ∧
    goes (exec (.divr 7 7 7) edge) .running ∧ goes (exec (.divr 7 7 0) edge) .faulted ∧ goes (exec (.divr 7 8 0) edge) .faulted := by
  decide

/-- Each clause at the edge of its range, and what it answers there. -/
theorem witness_EqualComparisons :
    (7#8).toNat < edge.numRegs ∧ edge.numRegs ≤ (8#8).toNat ∧
    (7#16).toNat < edge.numRegs ∧ edge.numRegs ≤ (8#16).toNat ∧
    (252#16).toNat + 4 ≤ edge.mem.size ∧ edge.mem.size < (253#16).toNat + 4 ∧
    goes (exec (.eqi 7 0xFFFF) edge) .running ∧ goes (exec (.eqi 8 0) edge) .faulted ∧
    goes (exec (.eqd 7 252) edge) .running ∧ goes (exec (.eqd 7 253) edge) .faulted ∧
    goes (exec (.eqr 7 7) edge) .running ∧ goes (exec (.eqr 7 8) edge) .faulted := by
  decide

/-- Each clause at the edge of its range, and what it answers there. -/
theorem witness_NotEqualComparisons :
    (7#8).toNat < edge.numRegs ∧ edge.numRegs ≤ (8#8).toNat ∧
    (7#16).toNat < edge.numRegs ∧ edge.numRegs ≤ (8#16).toNat ∧
    (252#16).toNat + 4 ≤ edge.mem.size ∧ edge.mem.size < (253#16).toNat + 4 ∧
    goes (exec (.neqi 7 0xFFFF) edge) .running ∧ goes (exec (.neqi 8 0) edge) .faulted ∧
    goes (exec (.neqd 7 252) edge) .running ∧ goes (exec (.neqd 7 253) edge) .faulted ∧
    goes (exec (.neqr 7 7) edge) .running ∧ goes (exec (.neqr 7 8) edge) .faulted := by
  decide

/-- Each clause at the edge of its range, and what it answers there. -/
theorem witness_GreaterThanComparisons :
    (7#8).toNat < edge.numRegs ∧ edge.numRegs ≤ (8#8).toNat ∧
    (7#16).toNat < edge.numRegs ∧ edge.numRegs ≤ (8#16).toNat ∧
    (252#16).toNat + 4 ≤ edge.mem.size ∧ edge.mem.size < (253#16).toNat + 4 ∧
    goes (exec (.gti 7 0xFFFF) edge) .running ∧ goes (exec (.gti 8 0) edge) .faulted ∧
    goes (exec (.gtd 7 252) edge) .running ∧ goes (exec (.gtd 7 253) edge) .faulted ∧
    goes (exec (.gtr 7 7) edge) .running ∧ goes (exec (.gtr 7 8) edge) .faulted := by
  decide

/-- Each clause at the edge of its range, and what it answers there. -/
theorem witness_GreaterOrEqualComparisons :
    (7#8).toNat < edge.numRegs ∧ edge.numRegs ≤ (8#8).toNat ∧
    (7#16).toNat < edge.numRegs ∧ edge.numRegs ≤ (8#16).toNat ∧
    (252#16).toNat + 4 ≤ edge.mem.size ∧ edge.mem.size < (253#16).toNat + 4 ∧
    goes (exec (.gtei 7 0xFFFF) edge) .running ∧ goes (exec (.gtei 8 0) edge) .faulted ∧
    goes (exec (.gted 7 252) edge) .running ∧ goes (exec (.gted 7 253) edge) .faulted ∧
    goes (exec (.gter 7 7) edge) .running ∧ goes (exec (.gter 7 8) edge) .faulted := by
  decide

/-- Each clause at the edge of its range, and what it answers there. -/
theorem witness_LessThanComparisons :
    (7#8).toNat < edge.numRegs ∧ edge.numRegs ≤ (8#8).toNat ∧
    (7#16).toNat < edge.numRegs ∧ edge.numRegs ≤ (8#16).toNat ∧
    (252#16).toNat + 4 ≤ edge.mem.size ∧ edge.mem.size < (253#16).toNat + 4 ∧
    goes (exec (.lti 7 0xFFFF) edge) .running ∧ goes (exec (.lti 8 0) edge) .faulted ∧
    goes (exec (.ltd 7 252) edge) .running ∧ goes (exec (.ltd 7 253) edge) .faulted ∧
    goes (exec (.ltr 7 7) edge) .running ∧ goes (exec (.ltr 7 8) edge) .faulted := by
  decide

/-- Each clause at the edge of its range, and what it answers there. -/
theorem witness_LessOrEqualComparisons :
    (7#8).toNat < edge.numRegs ∧ edge.numRegs ≤ (8#8).toNat ∧
    (7#16).toNat < edge.numRegs ∧ edge.numRegs ≤ (8#16).toNat ∧
    (252#16).toNat + 4 ≤ edge.mem.size ∧ edge.mem.size < (253#16).toNat + 4 ∧
    goes (exec (.ltei 7 0xFFFF) edge) .running ∧ goes (exec (.ltei 8 0) edge) .faulted ∧
    goes (exec (.lted 7 252) edge) .running ∧ goes (exec (.lted 7 253) edge) .faulted ∧
    goes (exec (.lter 7 7) edge) .running ∧ goes (exec (.lter 7 8) edge) .faulted := by
  decide

/-- Each clause at the edge of its range, and what it answers there. -/
theorem witness_JumpAlwaysInstructions :
    (252#24).toNat + 4 ≤ edge.mem.size ∧ edge.mem.size < (253#24).toNat + 4 ∧
    (7#24).toNat < edge.numRegs ∧ edge.numRegs ≤ (8#24).toNat ∧
    goes (exec (.jmpi 0xFFFFFF) edge) .running ∧
    goes (exec (.jmpd 252) edge) .running ∧ goes (exec (.jmpd 253) edge) .faulted ∧
    goes (exec (.jmpr 7) edge) .running ∧ goes (exec (.jmpr 8) edge) .faulted ∧
    edge.status = .running ∧ edge.stopSampled = false ∧ edge.mem.size < (BitVec.ofNat 32 (0xFFFFFF#24).toNat).toNat + 4 := by
  decide

/-- Each clause at the edge of its range, taken and not taken. -/
theorem witness_JumpIfSetInstructions :
    (252#24).toNat + 4 ≤ edge.mem.size ∧ edge.mem.size < (253#24).toNat + 4 ∧
    (7#24).toNat < edge.numRegs ∧ edge.numRegs ≤ (8#24).toNat ∧
    (edge.setFlag true).flag = true ∧ edge.flag = false ∧
    goes (exec (.jmpei 0xFFFFFF) (edge.setFlag true)) .running ∧ goes (exec (.jmpei 0xFFFFFF) edge) .running ∧
    goes (exec (.jmped 252) (edge.setFlag true)) .running ∧ goes (exec (.jmped 253) (edge.setFlag true)) .faulted ∧ goes (exec (.jmped 253) edge) .running ∧
    goes (exec (.jmper 7) (edge.setFlag true)) .running ∧ goes (exec (.jmper 8) (edge.setFlag true)) .faulted ∧ goes (exec (.jmper 8) edge) .faulted := by
  decide

/-- Each clause at the edge of its range, taken and not taken. -/
theorem witness_JumpIfClearInstructions :
    (252#24).toNat + 4 ≤ edge.mem.size ∧ edge.mem.size < (253#24).toNat + 4 ∧
    (7#24).toNat < edge.numRegs ∧ edge.numRegs ≤ (8#24).toNat ∧
    (edge.setFlag true).flag = true ∧ edge.flag = false ∧
    goes (exec (.jmpnei 0xFFFFFF) edge) .running ∧ goes (exec (.jmpnei 0xFFFFFF) (edge.setFlag true)) .running ∧
    goes (exec (.jmpned 252) edge) .running ∧ goes (exec (.jmpned 253) edge) .faulted ∧ goes (exec (.jmpned 253) (edge.setFlag true)) .running ∧
    goes (exec (.jmpner 7) edge) .running ∧ goes (exec (.jmpner 8) edge) .faulted ∧ goes (exec (.jmpner 8) (edge.setFlag true)) .faulted := by
  decide

/-- A state whose last two bytes are not zero, with strings and pointers at the edges. -/
def strings : State :=
  bench [(4, 253), (5, 254), (6, 256)] false [(0, [0, 0, 1, 0]), (4, [0, 0, 0, 253]), (8, [0, 0, 0, 254]), (252, [7, 0, 0x41, 0x42])]

/-- A start past memory, an empty string, a string of one byte, one without end; literal, pointer and register. -/
theorem witness_PrintStringInstructions :
    strings.mem.size ≤ (256#24).toNat ∧ strings.mem.size < (253#24).toNat + 4 ∧ (252#24).toNat + 4 ≤ strings.mem.size ∧
    strings.mem.byte 252 ≠ 0 ∧ strings.mem.byte (252 + 1) = 0 ∧ strings.mem.byte 254 ≠ 0 ∧ strings.mem.byte 255 ≠ 0 ∧
    strings.mem.size ≤ memNat strings.mem 0 4 ∧ memNat strings.mem 4 4 = 253 ∧ memNat strings.mem 8 4 = 254 ∧
    (strings.reg 4).toNat = 253 ∧ (strings.reg 5).toNat = 254 ∧ strings.mem.size ≤ (strings.reg 6).toNat ∧
    (7#24).toNat < strings.numRegs ∧ strings.numRegs ≤ (8#24).toNat ∧
    goes (exec (.prtsi 252) strings) .running ∧ goes (exec (.prtsi 254) strings) .faulted ∧ goes (exec (.prtsi 256) strings) .faulted ∧
    goes (exec (.prtsd 4) strings) .running ∧ goes (exec (.prtsd 8) strings) .faulted ∧ goes (exec (.prtsd 0) strings) .faulted ∧
      goes (exec (.prtsd 253) strings) .faulted ∧
    goes (exec (.prtsr 4) strings) .running ∧ goes (exec (.prtsr 5) strings) .faulted ∧ goes (exec (.prtsr 6) strings) .faulted ∧
      goes (exec (.prtsr 8) strings) .faulted := by
  decide

/-- The first and the last word of the illegal modes; a fetch past memory. -/
theorem witness_HaltInstruction :
    0x59 ≤ (0x59000000#32).toNat / 2 ^ 24 ∧ (0x5BFFFFFF#32).toNat / 2 ^ 24 ≤ 0x5B ∧
    (let s : State := { edge with pc := 253 };
      s.status = .running ∧ s.stopSampled = false ∧ s.mem.size < s.pc.toNat + 4) := by
  decide

/-- Four zero bytes that end memory, and a pc one further. -/
theorem witness_IllegalOpcodeInstruction :
    (let s := atEnd [0, 0, 0, 0];
      s.status = .running ∧ s.stopSampled = false ∧ s.pc.toNat + 4 ≤ s.mem.size ∧
      s.mem.byte s.pc.toNat = 0 ∧ s.mem.byte (s.pc.toNat + 1) = 0 ∧ s.mem.byte (s.pc.toNat + 2) = 0 ∧ s.mem.byte (s.pc.toNat + 3) = 0) ∧
    (let s : State := { atEnd [0, 0, 0, 0] with pc := 253 };
      s.status = .running ∧ s.stopSampled = false ∧ s.mem.size < s.pc.toNat + 4) := by
  decide

/-- A source that assembles. -/
theorem witness_AssembledImageLayout :
    assemblesTo [dir none "byte" [.num 7], dir none "code" [], ins none "HLT" []] [7] [0x58000000] = true := by
  decide

end Sys2Proof.Tests
end

section
/-!
Which words are legal (spec 30_encoding.md R84, R90, R91). `AgreesWithPair` says what the decoder may answer for an
opcode and a mode; each of the decoder's three ways of choosing by mode meets it, hence the decoder meets it for
every word, and the clauses of R91 are read off from it.
-/
namespace Sys2Proof.Encoding
open Sys2Proof.Machine

/-! ### What the decoder may answer for an opcode and a mode -/

/-- An instruction has the word's opcode and, unless that is 0, comes from a legal pair; no instruction is the
answer only for an illegal pair whose opcode is not 0. -/
def AgreesWithPair (op md : Nat) : Decoded → Prop
  | .instr i => instrOpcode i = op ∧ (op = 0 ∨ ¬ IllegalPair op md)
  | .illegal _ => op ≠ 0 ∧ IllegalPair op md

/-- `IGL` is the one instruction with opcode 0 (R90, R266). -/
theorem instrOpcode_eq_zero_iff (i : Instr) : instrOpcode i = 0 ↔ i = .igl := by
  cases i <;> simp [instrOpcode, encode]

/-! ### The three ways of choosing by mode -/

section
variable {op : Nat} {i d r : Instr}

/-- Loads, arithmetic, comparisons, jumps and PRTS: only mode 3 is illegal (R91 c). -/
theorem pickMode_agrees (md : BitVec 2) (hop : (1 ≤ op ∧ op ≤ 3) ∨ (8 ≤ op ∧ op ≤ 21))
    (ho : instrOpcode i = op ∧ instrOpcode d = op ∧ instrOpcode r = op) :
    AgreesWithPair op md.toNat (pickMode md i d r) := by
  obtain ⟨hi, hd, hr⟩ := ho
  rcases pickMode_cases md i d r with ⟨hm, hp⟩ | ⟨hm, hp⟩ | ⟨hm, hp⟩ | ⟨hm, hp⟩ <;> rw [hp, hm]
  · exact ⟨hi, by omega⟩
  · exact ⟨hd, by omega⟩
  · exact ⟨hr, by omega⟩
  · exact ⟨by omega, by omega⟩

/-- Stores: mode 0 is illegal too (R91 c, d). -/
theorem pickStoreMode_agrees (md : BitVec 2) (hop : 4 ≤ op ∧ op ≤ 6)
    (ho : instrOpcode d = op ∧ instrOpcode r = op) :
    AgreesWithPair op md.toNat (pickStoreMode md d r) := by
  obtain ⟨hd, hr⟩ := ho
  rcases pickStoreMode_cases md d r with ⟨hm, hp⟩ | ⟨hm, hp⟩ | ⟨hm, why, hp⟩ <;> rw [hp]
  · exact ⟨hd, by omega⟩
  · exact ⟨hr, by omega⟩
  · exact ⟨by omega, by omega⟩

/-- MOV and HLT: every mode but 0 is illegal (R91 c, e). -/
theorem pickNoMode_agrees (md : BitVec 2) (hop : op = 7 ∨ op = 22) (ho : instrOpcode i = op) :
    AgreesWithPair op md.toNat (pickNoMode md i) := by
  rcases pickNoMode_cases md i with ⟨hm, hp⟩ | ⟨hm, why, hp⟩ <;> rw [hp]
  · exact ⟨ho, by omega⟩
  · exact ⟨by omega, by omega⟩

end

/-! ### Which way each opcode chooses (R90) -/

section
variable {w : Word} {n : Nat}

/-- A row of R90 with the modes I, D and R, its three instructions of the row's opcode. -/
theorem decodeWord_eq_pickMode (hn : (opField w).toNat = n) (hop : (1 ≤ n ∧ n ≤ 3) ∨ (8 ≤ n ∧ n ≤ 21)) :
    ∃ i d r, decodeWord w = pickMode (mdField w) i d r ∧
      instrOpcode i = n ∧ instrOpcode d = n ∧ instrOpcode r = n := by
  rcases hop with ⟨hlo, hhi⟩ | ⟨hlo, hhi⟩
  all_goals
    interval_cases n
    all_goals
      simp only [decodeWord_op1, decodeWord_op2, decodeWord_op3, decodeWord_op8, decodeWord_op9, decodeWord_op10,
        decodeWord_op11, decodeWord_op12, decodeWord_op13, decodeWord_op14, decodeWord_op15, decodeWord_op16,
        decodeWord_op17, decodeWord_op18, decodeWord_op19, decodeWord_op20, decodeWord_op21, hn]
      exact ⟨_, _, _, rfl, by simp [instrOpcode, encode]⟩

/-- A store's row of R90. -/
theorem decodeWord_eq_pickStoreMode (hn : (opField w).toNat = n) (hop : 4 ≤ n ∧ n ≤ 6) :
    ∃ d r, decodeWord w = pickStoreMode (mdField w) d r ∧ instrOpcode d = n ∧ instrOpcode r = n := by
  obtain ⟨hlo, hhi⟩ := hop
  interval_cases n
  · exact ⟨_, _, decodeWord_op4 w hn, by simp [instrOpcode, encode]⟩
  · exact ⟨_, _, decodeWord_op5 w hn, by simp [instrOpcode, encode]⟩
  · exact ⟨_, _, decodeWord_op6 w hn, by simp [instrOpcode, encode]⟩

/-- The rows of R90 without a suffix: MOV and HLT. -/
theorem decodeWord_eq_pickNoMode (hn : (opField w).toNat = n) (hop : n = 7 ∨ n = 22) :
    ∃ i, decodeWord w = pickNoMode (mdField w) i ∧ instrOpcode i = n := by
  rcases hop with rfl | rfl
  · exact ⟨_, decodeWord_op7 w hn, by simp [instrOpcode, encode]⟩
  · exact ⟨_, decodeWord_op22 w hn, by simp [instrOpcode, encode]⟩

end

/-! ### Every word -/

/-- The decoder answers as the opcode and the mode of the word say, opcode by opcode (R90, R91). -/
theorem decodeWord_agrees (w : Word) :
    AgreesWithPair (opField w).toNat (mdField w).toNat (decodeWord w) := by
  have hlt := (opField w).isLt
  generalize hn : (opField w).toNat = n at hlt ⊢
  have hclass : n = 0 ∨ ((1 ≤ n ∧ n ≤ 3) ∨ (8 ≤ n ∧ n ≤ 21)) ∨ (4 ≤ n ∧ n ≤ 6) ∨ (n = 7 ∨ n = 22) ∨ 23 ≤ n := by
    omega
  rcases hclass with h0 | hmodes | hstore | hnoMode | hunassigned
  · subst h0
    rw [decodeWord_op0 w hn]
    exact ⟨(instrOpcode_eq_zero_iff _).mpr rfl, .inl rfl⟩
  · have ⟨i, d, r, hd, ho⟩ := decodeWord_eq_pickMode hn hmodes
    rw [hd]
    exact pickMode_agrees _ hmodes ho
  · have ⟨d, r, hd, ho⟩ := decodeWord_eq_pickStoreMode hn hstore
    rw [hd]
    exact pickStoreMode_agrees _ hstore ho
  · have ⟨i, hd, ho⟩ := decodeWord_eq_pickNoMode hn hnoMode
    rw [hd]
    exact pickNoMode_agrees _ hnoMode ho
  · rw [decodeWord_unassigned w (hn ▸ hunassigned)]
    exact ⟨by omega, by omega⟩

/-- The same with the opcode and the mode taken from the word's number (R82). -/
theorem decodeWord_agrees_toNat (w : Word) :
    AgreesWithPair (w.toNat / 2 ^ 26) (w.toNat / 2 ^ 24 % 4) (decodeWord w) := by
  simpa only [opField_toNat, mdField_toNat, Nat.reducePow] using decodeWord_agrees w

/-- The opcode of the instruction a word decodes to is the word's. -/
theorem instrOpcode_of_decodeWord {w : Word} {i : Instr} (h : decodeWord w = .instr i) :
    instrOpcode i = w.toNat / 2 ^ 26 := by
  have ha := decodeWord_agrees_toNat w
  rw [h] at ha
  exact ha.1

/-! ### The clauses of R91 -/

/-- Case (a): IGL is the answer exactly for opcode 0. -/
theorem decodeWord_eq_igl_iff (w : Word) : decodeWord w = .instr .igl ↔ w.toNat / 2 ^ 26 = 0 := by
  have ha := decodeWord_agrees_toNat w
  cases hd : decodeWord w with
  | instr i =>
    rw [← instrOpcode_of_decodeWord hd, instrOpcode_eq_zero_iff, Decoded.instr.injEq]
  | illegal why =>
    rw [hd] at ha
    exact iff_of_false Decoded.noConfusion ha.1

/-- Cases (b) to (e): no instruction is the answer exactly for the illegal pairs with another opcode. -/
theorem decodeWord_illegal_iff (w : Word) :
    (∃ why, decodeWord w = .illegal why) ↔
      w.toNat / 2 ^ 26 ≠ 0 ∧ IllegalPair (w.toNat / 2 ^ 26) (w.toNat / 2 ^ 24 % 4) := by
  have ha := decodeWord_agrees_toNat w
  cases hd : decodeWord w with
  | instr i =>
    rw [hd] at ha
    exact iff_of_false (fun ⟨_, h⟩ => Decoded.noConfusion h) fun ⟨h0, hp⟩ => ha.2.elim h0 (· hp)
  | illegal why =>
    rw [hd] at ha
    exact iff_of_true ⟨why, rfl⟩ ha

/-- Every other word: an instruction of its opcode that is not IGL. -/
theorem decodeWord_of_legalPair (w : Word) (hl : ¬ IllegalPair (w.toNat / 2 ^ 26) (w.toNat / 2 ^ 24 % 4)) :
    ∃ i, decodeWord w = .instr i ∧ i ≠ .igl ∧ instrOpcode i = w.toNat / 2 ^ 26 := by
  cases hd : decodeWord w with
  | instr i =>
    have ho := instrOpcode_of_decodeWord hd
    refine ⟨i, rfl, fun hi => hl (.inl ?_), ho⟩
    rw [← ho, instrOpcode_eq_zero_iff, hi]
  | illegal why => exact absurd ((decodeWord_illegal_iff w).mp ⟨why, hd⟩).2 hl

/-- The 59 legal pairs, counted over the first byte, `op * 4 + md`. -/
theorem legalPairs_length :
    ((List.range 256).filter fun b => decide (¬ IllegalPair (b / 4) (b % 4))).length = 59 := by
  decide

/-- Settles O2: R91 (a) to (e) clause by clause; an illegal word is one of case (a) or one of the others. -/
theorem illegalWordsExactly : Obligations.IllegalWordsExactly := by
  refine ⟨fun w => ?_, decodeWord_eq_igl_iff, decodeWord_of_legalPair, legalPairs_length,
    (decodeWord_eq_igl_iff 0).mpr rfl⟩
  rw [decodeWord_eq_igl_iff, decodeWord_illegal_iff]
  constructor
  · rintro (h0 | ⟨-, hp⟩)
    · exact .inl h0
    · exact hp
  · intro hp
    by_cases h0 : w.toNat / 2 ^ 26 = 0
    · exact .inl h0
    · exact .inr ⟨h0, hp⟩

end Sys2Proof.Encoding
end

section
/-!
The cycle's two checks before an instruction takes effect (spec 40_fsm_dispatch.md): the fetch bound of R126, which
is `nextFetchFaults`, and the register check of R131, which is `exec_of_not_wellFormed`.
-/
namespace Sys2Proof.Dispatch
open Sys2Proof.Machine

/-! ### The fetch bound (R126) -/

theorem withFetch_fail {s : State} (k : List Byte → Result) (h : s.mem.size < s.pc.toNat + 4) :
    withFetch s k = .next (s.raise .outOfBounds) := by
  obtain ⟨hin, -⟩ | ⟨-, e⟩ := withFetch_cases s k
  · omega
  · exact e

/-- In state Running a step is the cycle of R122. -/
theorem step_of_running {s : State} (hr : s.status = .running) : step s = cycle s := by
  unfold step; rw [hr]

/-- A cycle that is not stopped and cannot fetch ends at the fetch, whatever the decoder would answer. -/
theorem cycle_of_fetch_outOfBounds {s : State} (hs : s.stopSampled = false) (h : s.mem.size < s.pc.toNat + 4) :
    cycle s = .next (s.afterSample.raise .outOfBounds) := by
  unfold cycle
  rw [if_neg (by simp [hs])]
  exact withFetch_fail _ h

/-- R126, of every state. -/
theorem nextFetchFaults (s : State) : NextFetchFaults s := by
  intro hr hs h
  calc step s
    _ = cycle s := step_of_running hr
    _ = .next (s.afterSample.raise .outOfBounds) := cycle_of_fetch_outOfBounds hs h

/-! ### A jump beyond memory -/

@[simp] theorem stopSampled_jumpTo (s : State) (t : Word) : (s.jumpTo t).stopSampled = s.stopSampled := rfl

/-- JMPR of a register the machine has sets pc to its content without looking at it (R135, R240, R243). -/
theorem exec_jmpr_of_lt {s : State} {v : BitVec 24} (hv : v.toNat < s.numRegs) :
    exec (.jmpr v) s = .next (s.jumpTo (s.reg v.toNat)) :=
  checkRegs_pass (jumpTarget .always .register v s) (by simpa using hv)

/-- Settles O6: the fetch check of R126, at pc itself and at the pc a register-indirect jump leaves. -/
theorem fetchOutOfBoundsFaults : Obligations.FetchOutOfBoundsFaults := by
  refine ⟨nextFetchFaults, fun s v hr hs hv h => ⟨_, exec_jmpr_of_lt hv, rfl, hr, ?_⟩⟩
  exact nextFetchFaults (s.jumpTo (s.reg v.toNat)) hr (by simpa using hs) h

/-! ### The register check (R131) -/

/-- Every meaning begins with the register check over exactly the indices of the table RegIndices; where the table
names none, the check passes. -/
theorem exec_eq_checkRegs (i : Instr) (s : State) : ∃ k, exec i s = checkRegs i.regIndices s k := by
  cases i with
  | igl | hlt | jmpi _ | jmpd _ | jmpei _ | jmped _ | jmpnei _ | jmpned _ | prtsi _ | prtsd _ =>
    exact ⟨_, (checkRegs_pass _ (by simp [Instr.regIndices])).symm⟩
  | _ => exact ⟨_, rfl⟩

/-- An instruction that names a register outside the file raises OutOfBounds, before anything else it would do. -/
theorem exec_of_not_wellFormed {i : Instr} {s : State} (h : ¬ i.WellFormed s.numRegs) :
    exec i s = .next (s.raise .outOfBounds) := by
  obtain ⟨k, hk⟩ := exec_eq_checkRegs i s
  have hfail : ∃ j ∈ i.regIndices, s.numRegs ≤ j := by simpa [Instr.WellFormed] using h
  rw [hk, checkRegs_fail k hfail]

/-- Settles O8: R131 of every instruction, by the check each meaning begins with. -/
theorem registerCheckPrecedesExecution : Obligations.RegisterCheckPrecedesExecution :=
  fun _ _ => exec_of_not_wellFormed

end Sys2Proof.Dispatch
end

section
/-!
Words and numbers: instruction words (spec 30_encoding.md R85, R94), memory read as a number (20_memory.md R53), and
from the two what the next fetch sees (20_memory.md R66, 40_fsm_dispatch.md R125). The decoder undoes the
encoder (`decodeWord_encode`) and the fetched word is the number in memory (`load_toNat`), so every state reads its next
instruction from memory as it stands: `nextFetchReads`.
-/
namespace Sys2Proof.DataTransfer
open Sys2Proof.Machine

/-! ### Words (R85, R94) -/

/-- A word of class RV as a number, from the number of its opcode and mode. -/
theorem packRV_toNat_of_head {op : BitVec 6} {md : BitVec 2} {a : BitVec 8} {v : BitVec 16} {head : Nat}
    (h : op.toNat * 67108864 + md.toNat * 16777216 = head) :
    (packRV op md a v).toNat = head + a.toNat * 2 ^ 16 + v.toNat := by
  rw [packRV_toNat, h]
  rfl

/-! ### Decoding what was encoded (R94, R127) -/

/-- The decoder finds the instruction a word was made from, class by class: its opcode and mode choose the row of
R90, and the operand fields are the ones that were packed. -/
theorem decodeWord_encode (i : Instr) : decodeWord (encode i) = .instr i := by
  cases i with
  | igl | jmpi _ | jmpd _ | jmpr _ | jmpei _ | jmped _ | jmper _ | jmpnei _ | jmpned _ | jmpner _
  | prtsi _ | prtsd _ | prtsr _ | hlt =>
    rw [encode, decodeWord, opField_packA24, mdField_packA24, v24Field_packA24]
    rfl
  | mov _ _ | addr _ _ _ | subr _ _ _ | mulr _ _ _ | divr _ _ _ =>
    rw [encode, decodeWord, opField_packRRR, mdField_packRRR, aField_packRRR, bField_packRRR, cField_packRRR]
    rfl
  | _ =>
    rw [encode, decodeWord, opField_packRV, mdField_packRV, aField_packRV, v16Field_packRV]
    rfl

/-! ### Reading memory (R53) -/

/-- A load gives the big-endian number its bytes are, zero-extended (R53, R160). -/
theorem load_toNat (m : Memory) (wd : Width) (a : Nat) : (m.load wd a).toNat = memNat m a (widthBytes wd) := by
  cases wd with
  | word => rw [Memory.load_word_toNat]; simp [memNat, widthBytes, Nat.add_assoc]
  | half => rw [Memory.load_half_toNat]; simp [memNat, widthBytes]
  | byte => rw [Memory.load_byte_toNat]; simp [memNat, widthBytes]

/-- Four bytes that hold an instruction's word decode to it. -/
theorem decode_bytesFrom_of_memNat {m : Memory} {a : Nat} {i : Instr} (h : memNat m a 4 = (encode i).toNat) :
    decode (m.bytesFrom a 4) = .instr i := by
  have hw : m.load .word a = encode i := BitVec.eq_of_toNat_eq ((load_toNat m .word a).trans h)
  calc decode (m.bytesFrom a 4)
    _ = decodeWord (m.load .word a) := rfl
    _ = .instr i := by rw [hw, decodeWord_encode]

/-! ### The next fetch (R66, R125) -/

theorem withFetch_pass {s : State} (k : List Byte → Result) (h : s.pc.toNat + 4 ≤ s.mem.size) :
    withFetch s k = k (s.mem.bytesFrom s.pc.toNat 4) := by
  obtain ⟨-, e⟩ | ⟨hout, -⟩ := withFetch_cases s k
  · exact e
  · omega

/-- A cycle that is not stopped and whose four bytes at pc lie in memory runs the instruction they decode to. -/
theorem cycle_of_fetch {s : State} {i : Instr} (hs : s.stopSampled = false) (h : s.pc.toNat + 4 ≤ s.mem.size)
    (hd : decode (s.mem.bytesFrom s.pc.toNat 4) = .instr i) : cycle s = exec i s.afterSample := by
  unfold cycle
  rw [if_neg (by simp [hs]), withFetch_pass (s := s.afterSample) _ h]
  simp only [State.afterSample_mem, State.afterSample_pc, hd]

/-- R66 and R125, of every state. -/
theorem nextFetchReads (t : State) : NextFetchReads t := fun hr hs h _ hi =>
  (Dispatch.step_of_running hr).trans (cycle_of_fetch hs h (decode_bytesFrom_of_memNat hi))

end Sys2Proof.DataTransfer
end

section
/-!
The loads and MOV (spec 41_data_transfer.md R160 to R169, R176). The direct and the register-indirect loads are one
checked load at two effective addresses, of any width; the nine instructions are read off from the three modes.
-/
namespace Sys2Proof.DataTransfer
open Sys2Proof.Machine

/-! ### A register written (R136, R139) -/

/-- Writing a register the machine has and advancing pc changes nothing else. -/
theorem writeAndAdvance_completes {s : State} {r n : Nat} {x : Word} (hr : r < s.numRegs) (hx : x.toNat = n) :
    Completes (writeAndAdvance r x s) (WritesReg r n s) :=
  ⟨_, rfl, {
    value := by rw [State.advance_reg, State.setReg_reg_same s r x hr, hx]
    others := fun k hk => State.setReg_reg_ne s r k x hk
    count := State.setReg_numRegs s r x
    pc := rfl
    flag := rfl
    mem := ⟨rfl, fun _ => rfl⟩
    control := ⟨rfl, rfl, rfl, rfl⟩ }⟩

/-! ### Immediate loads -/

/-- What an immediate load of a width loads of its literal, as a number. -/
theorem truncateTo_toNat (wd : Width) (x : Word) : (truncateTo wd x).toNat = x.toNat % 256 ^ widthBytes wd := by
  cases wd with
  | word => exact (Nat.mod_eq_of_lt x.isLt).symm
  | half | byte =>
    simp only [truncateTo, widthBytes, BitVec.truncate_eq_setWidth, BitVec.toNat_setWidth, BitVec.extractLsb'_toNat,
      Nat.shiftRight_zero]
    omega

theorem loadImmediate_completes {wd : Width} {s : State} {r : BitVec 8} {v : BitVec 16} {n : Nat}
    (hn : v.toNat % 256 ^ widthBytes wd = n) (hr : r.toNat < s.numRegs) :
    Completes (loadImmediate wd r v s) (WritesReg r.toNat n s) := by
  unfold loadImmediate
  rw [checkRegs_pass _ (by simpa using hr)]
  exact writeAndAdvance_completes hr (by rw [truncateTo_toNat, zext16_toNat, hn])

theorem loadImmediate_faults {wd : Width} {s : State} {r : BitVec 8} {v : BitVec 16} (hr : s.numRegs ≤ r.toNat) :
    Faults (loadImmediate wd r v s) s .outOfBounds :=
  checkRegs_fail _ (by simpa using hr)

/-- A half-word or a word holds every 16-bit literal. -/
theorem literal_mod_of_le {b : Nat} (v : BitVec 16) (hb : 2 ^ 16 ≤ b) : v.toNat % b = v.toNat :=
  Nat.mod_eq_of_lt (Nat.lt_of_lt_of_le v.isLt hb)

/-! ### Loads from memory -/

section
variable {wd : Width} {s : State} {r : BitVec 8} {v : BitVec 16}

/-- A checked load: its indices in the file and its bytes in memory, the register gets their number. -/
theorem checkedLoad_completes {idx : List Nat} {a : Word} {d : Nat} (hidx : ∀ i ∈ idx, i < s.numRegs)
    (hd : d ∈ idx) (ha : a.toNat + widthBytes wd ≤ s.mem.size) :
    Completes (checkRegs idx s (withRead wd a s fun x => writeAndAdvance d x s))
      (WritesReg d (memNat s.mem a.toNat (widthBytes wd)) s) := by
  rw [checkRegs_pass _ hidx, withRead_pass _ ha]
  exact writeAndAdvance_completes (hidx d hd) (load_toNat _ _ _)

/-- A checked load with an index outside the file or a byte outside memory faults, and no register is written. -/
theorem checkedLoad_faults {idx : List Nat} {a : Word} {k : Word → Result}
    (h : (∃ i ∈ idx, s.numRegs ≤ i) ∨ s.mem.size < a.toNat + widthBytes wd) :
    Faults (checkRegs idx s (withRead wd a s k)) s .outOfBounds := by
  obtain ⟨hin, e⟩ | ⟨-, e⟩ := checkRegs_cases idx s (withRead wd a s k)
  · have ha : s.mem.size < a.toNat + widthBytes wd := h.resolve_left fun ⟨i, hi, hle⟩ => by
      have := hin i hi
      omega
    exact e.trans (withRead_fail k ha)
  · exact e

theorem loadDirect_completes (hr : r.toNat < s.numRegs) (hv : v.toNat + widthBytes wd ≤ s.mem.size) :
    Completes (loadDirect wd r v s) (WritesReg r.toNat (memNat s.mem v.toNat (widthBytes wd)) s) := by
  have h := checkedLoad_completes (a := eaDirect v) (d := r.toNat) (idx := [r.toNat]) (by simpa using hr)
    (by simp) (by simpa [eaDirect] using hv)
  rwa [eaDirect, zext16_toNat] at h

theorem loadDirect_faults (h : s.numRegs ≤ r.toNat ∨ s.mem.size < v.toNat + widthBytes wd) :
    Faults (loadDirect wd r v s) s .outOfBounds :=
  checkedLoad_faults (by simpa [eaDirect] using h)

theorem loadIndirect_completes (hr : r.toNat < s.numRegs) (hv : v.toNat < s.numRegs)
    (ha : (s.reg v.toNat).toNat + widthBytes wd ≤ s.mem.size) :
    Completes (loadIndirect wd r v s)
      (WritesReg r.toNat (memNat s.mem (s.reg v.toNat).toNat (widthBytes wd)) s) :=
  checkedLoad_completes (by simpa using ⟨hr, hv⟩) (by simp) ha

theorem loadIndirect_faults
    (h : s.numRegs ≤ r.toNat ∨ s.numRegs ≤ v.toNat ∨ s.mem.size < (s.reg v.toNat).toNat + widthBytes wd) :
    Faults (loadIndirect wd r v s) s .outOfBounds :=
  checkedLoad_faults (by simpa [eaRegister, or_assoc] using h)

end

/-! ### The assembler's LDBI (R96, R167) -/

/-- A number that is a field's own fits it. -/
theorem fit_toNat {n : Nat} (x : BitVec n) : fit n x.toNat = .ok x := by
  rw [fit, if_pos x.isLt, BitVec.ofNat_toNat, BitVec.setWidth_eq]

/-- Two operands `$r, n` whose numbers fit are packed as they are. -/
theorem packOperands_regValue (labels : List (String × Nat)) (mk : BitVec 8 → BitVec 16 → Instr) (r : BitVec 8)
    (v : BitVec 16) : packOperands labels (.regValue mk) [.reg r.toNat, .num v.toNat] = .ok (mk r v) := by
  simp only [packOperands, registerOperand, valueOperand, fit_toNat]
  rfl

theorem lookup_LDBI : mnemonicForms.lookup "LDBI" = some (.regValue .ldbi) := rfl

/-- Any 16-bit literal assembles: the truncation of R167 is the machine's, not the assembler's. -/
theorem assembleInstr_LDBI (r : BitVec 8) (v : BitVec 16) :
    assembleInstr [] "LDBI" [.reg r.toNat, .num v.toNat] = .ok (.ldbi r v) := by
  rw [assembleInstr, lookup_LDBI]
  exact packOperands_regValue [] .ldbi r v

/-! ### The statements about loads -/

/-- Settles O28: the three modes of the load at width 4, which holds every literal. -/
theorem loadWordInstructions : Obligations.LoadWordInstructions := fun _ _ v =>
  ⟨⟨packRV_toNat_of_head rfl, packRV_toNat_of_head rfl, packRV_toNat_of_head rfl⟩,
    loadImmediate_completes (wd := .word) (literal_mod_of_le v (by decide)), loadImmediate_faults,
    loadDirect_completes (wd := .word), loadDirect_faults (wd := .word),
    loadIndirect_completes (wd := .word), loadIndirect_faults (wd := .word)⟩

/-- Settles O29: the three modes of the load at width 2, which holds every literal. -/
theorem loadHalfInstructions : Obligations.LoadHalfInstructions := fun _ _ v =>
  ⟨⟨packRV_toNat_of_head rfl, packRV_toNat_of_head rfl, packRV_toNat_of_head rfl⟩,
    loadImmediate_completes (wd := .half) (literal_mod_of_le v (by decide)), loadImmediate_faults,
    loadDirect_completes (wd := .half), loadDirect_faults (wd := .half),
    loadIndirect_completes (wd := .half), loadIndirect_faults (wd := .half)⟩

/-- Settles O30: the three modes of the load at width 1, which cuts the literal, and the assembler, which does not. -/
theorem loadByteInstructions : Obligations.LoadByteInstructions := fun _ r v =>
  ⟨⟨packRV_toNat_of_head rfl, packRV_toNat_of_head rfl, packRV_toNat_of_head rfl⟩,
    loadImmediate_completes (wd := .byte) rfl, loadImmediate_faults,
    loadDirect_completes (wd := .byte), loadDirect_faults (wd := .byte),
    loadIndirect_completes (wd := .byte), loadIndirect_faults (wd := .byte),
    assembleInstr_LDBI r v⟩

/-! ### MOV (R176) -/

/-- A word with MOV's opcode and mode 0 is MOV of its A and B, whatever its C is (R93). -/
theorem decodeWord_packRRR_mov (d r c : BitVec 8) : decodeWord (packRRR 7 mdI d r c) = .instr (.mov d r) := by
  rw [decodeWord_op7 _ (by simp), mdField_packRRR, aField_packRRR, bField_packRRR, pickNoMode_mdI]

/-- The number of such a word (R94). -/
theorem packRRR_mov_toNat (d r c : BitVec 8) :
    (packRRR 7 mdI d r c).toNat = 0x1C000000 + d.toNat * 2 ^ 16 + r.toNat * 2 ^ 8 + c.toNat := by
  rw [packRRR_toNat]
  rfl

theorem exec_mov_completes {s : State} {d r : BitVec 8} (hd : d.toNat < s.numRegs) (hr : r.toNat < s.numRegs) :
    Completes (exec (.mov d r) s) (WritesReg d.toNat (s.reg r.toNat).toNat s) := by
  have e : exec (.mov d r) s = writeAndAdvance d.toNat (s.reg r.toNat) s :=
    checkRegs_pass _ (by simpa using ⟨hd, hr⟩)
  rw [e]
  exact writeAndAdvance_completes hd rfl

theorem exec_mov_faults {s : State} {d r : BitVec 8} (h : s.numRegs ≤ d.toNat ∨ s.numRegs ≤ r.toNat) :
    Faults (exec (.mov d r) s) s .outOfBounds :=
  checkRegs_fail _ (by simpa using h)

/-- Settles O34: the word with any C, the illegal modes by R91 (c) and (e), and the copy. -/
theorem moveInstruction : Obligations.MoveInstruction := by
  refine ⟨fun d r c => ⟨packRRR_mov_toNat d r 0, ?_⟩, fun w hlo hhi => ?_,
    fun _ _ _ => ⟨exec_mov_completes, exec_mov_faults⟩⟩
  · rw [← packRRR_mov_toNat, BitVec.ofNat_toNat, BitVec.setWidth_eq]
    exact decodeWord_packRRR_mov d r c
  · have hop : w.toNat / 2 ^ 26 = 7 := by omega
    have hmd : w.toNat / 2 ^ 24 % 4 ≠ 0 := by omega
    exact (Encoding.decodeWord_illegal_iff w).mpr ⟨by omega, by omega⟩

end Sys2Proof.DataTransfer
end

section
/-!
The stores (spec 41_data_transfer.md R170 to R175). The direct and the register-indirect stores are one checked store at
two effective addresses, of any width, and what it stores is seen by the next fetch (`nextFetchReads`).
-/
namespace Sys2Proof.DataTransfer
open Sys2Proof.Machine

/-! ### Bytes stored (R54) -/

/-- The bytes a store writes are the big-endian digits of the value, in base 256. -/
theorem storeBytes_getD_toNat (wd : Width) (x : Word) {k : Nat} (hk : k < widthBytes wd) :
    ((storeBytes wd x).getD k 0).toNat = x.toNat / 256 ^ (widthBytes wd - 1 - k) % 256 := by
  cases wd with
  | word =>
    have hk : k < 4 := hk
    interval_cases k <;> simp [storeBytes, bytesOfWord, widthBytes, Nat.shiftRight_eq_div_pow]
  | half =>
    have hk : k < 2 := hk
    interval_cases k <;> simp [storeBytes, widthBytes, Nat.shiftRight_eq_div_pow]
  | byte =>
    have hk : k < 1 := hk
    interval_cases k
    simp [storeBytes, widthBytes]

/-- Storing in memory and advancing pc changes nothing else (R54, R136). -/
theorem storesBytes_setMem_advance (wd : Width) (a : Nat) (x : Word) (s : State) :
    StoresBytes a (widthBytes wd) x.toNat s (s.setMem (s.mem.store wd a x)).advance where
  stored k hk := by
    simp only [State.advance_mem, State.setMem_mem, Memory.byte_store_inside s.mem wd a k x hk,
      storeBytes_getD_toNat wd x hk]
  outside b hb := Memory.byte_store_outside s.mem wd a b x hb
  size := Memory.store_size s.mem wd a x
  regs := ⟨rfl, fun _ => rfl⟩
  pc := rfl
  flag := rfl
  control := ⟨rfl, rfl, rfl, rfl⟩

/-! ### The two modes -/

section
variable {wd : Width} {s : State} {r : BitVec 8} {v : BitVec 16} {a x : Word} {idx : List Nat}

/-- A checked store: its indices in the file and its bytes in memory, they are written and the next fetch reads
them. -/
theorem checkedStore_completes (hidx : ∀ i ∈ idx, i < s.numRegs) (ha : a.toNat + widthBytes wd ≤ s.mem.size) :
    Completes (checkRegs idx s (storeAndAdvance wd a x s)) fun t =>
      StoresBytes a.toNat (widthBytes wd) x.toNat s t ∧ NextFetchReads t := by
  rw [checkRegs_pass _ hidx]
  obtain ⟨-, e⟩ | ⟨hout, -⟩ := storeAndAdvance_cases wd a x s
  · exact ⟨_, e, storesBytes_setMem_advance wd a.toNat x s, nextFetchReads _⟩
  · omega

/-- A checked store with an index outside the file or a byte outside memory faults, and no byte is written. -/
theorem checkedStore_faults (h : (∃ i ∈ idx, s.numRegs ≤ i) ∨ s.mem.size < a.toNat + widthBytes wd) :
    Faults (checkRegs idx s (storeAndAdvance wd a x s)) s .outOfBounds := by
  obtain ⟨hin, e⟩ | ⟨-, e⟩ := checkRegs_cases idx s (storeAndAdvance wd a x s)
  · obtain ⟨hfits, -⟩ | ⟨-, e'⟩ := storeAndAdvance_cases wd a x s
    · obtain ⟨i, hi, hle⟩ | hout := h
      · have := hin i hi
        omega
      · omega
    · exact e.trans e'
  · exact e

theorem storeDirect_completes (hea : eaDirect v = a) (hr : r.toNat < s.numRegs)
    (ha : a.toNat + widthBytes wd ≤ s.mem.size) :
    a.toNat = v.toNat ∧ Completes (storeDirect wd r v s) fun t =>
      StoresBytes a.toNat (widthBytes wd) (s.reg r.toNat).toNat s t ∧ NextFetchReads t := by
  subst hea
  exact ⟨zext16_toNat v, checkedStore_completes (by simpa using hr) ha⟩

theorem storeDirect_faults (h : s.numRegs ≤ r.toNat ∨ s.mem.size < v.toNat + widthBytes wd) :
    Faults (storeDirect wd r v s) s .outOfBounds :=
  checkedStore_faults (by simpa [eaDirect] using h)

theorem storeIndirect_completes (hea : eaRegister v s = a) (hr : r.toNat < s.numRegs) (hv : v.toNat < s.numRegs)
    (ha : a.toNat + widthBytes wd ≤ s.mem.size) :
    a = s.reg v.toNat ∧ Completes (storeIndirect wd r v s) fun t =>
      StoresBytes a.toNat (widthBytes wd) (s.reg r.toNat).toNat s t ∧ NextFetchReads t := by
  subst hea
  exact ⟨rfl, checkedStore_completes (by simpa using ⟨hr, hv⟩) ha⟩

theorem storeIndirect_faults
    (h : s.numRegs ≤ r.toNat ∨ s.numRegs ≤ v.toNat ∨ s.mem.size < (s.reg v.toNat).toNat + widthBytes wd) :
    Faults (storeIndirect wd r v s) s .outOfBounds :=
  checkedStore_faults (by simpa [eaRegister, or_assoc] using h)

end

/-! ### The statements about stores -/

/-- Settles O31: the two modes of the store at width 4. -/
theorem storeWordInstructions : Obligations.StoreWordInstructions := fun _ _ _ =>
  ⟨⟨packRV_toNat_of_head rfl, packRV_toNat_of_head rfl⟩,
    fun _ => storeDirect_completes (wd := .word), storeDirect_faults (wd := .word),
    fun _ => storeIndirect_completes (wd := .word), storeIndirect_faults (wd := .word)⟩

/-- Settles O32: the two modes of the store at width 2. -/
theorem storeHalfInstructions : Obligations.StoreHalfInstructions := fun _ _ _ =>
  ⟨⟨packRV_toNat_of_head rfl, packRV_toNat_of_head rfl⟩,
    fun _ => storeDirect_completes (wd := .half), storeDirect_faults (wd := .half),
    fun _ => storeIndirect_completes (wd := .half), storeIndirect_faults (wd := .half)⟩

/-- Settles O33: the two modes of the store at width 1. -/
theorem storeByteInstructions : Obligations.StoreByteInstructions := fun _ _ _ =>
  ⟨⟨packRV_toNat_of_head rfl, packRV_toNat_of_head rfl⟩,
    fun _ => storeDirect_completes (wd := .byte), storeDirect_faults (wd := .byte),
    fun _ => storeIndirect_completes (wd := .byte), storeIndirect_faults (wd := .byte)⟩

end Sys2Proof.DataTransfer
end

section
/-!
Arithmetic (spec 42_arithmetic.md R190 to R202). Each of the twelve instructions is one operation at one of three operand
forms. `aluNat` names the result of R190 as plain numbers; what each form computes, and what it faults on, is said
once for all four operations (R133, R138), and DIV's zero divisor once for all three forms (R275).
-/
namespace Sys2Proof.Arithmetic
open Sys2Proof.Machine

/-! ### Words (R85, R94) -/

/-- A word of class RRR as a number, from the number of its opcode and mode. -/
theorem packRRR_toNat_of_head {op : BitVec 6} {md : BitVec 2} {a b c : BitVec 8} {head : Nat}
    (h : op.toNat * 67108864 + md.toNat * 16777216 = head) :
    (packRRR op md a b c).toNat = head + a.toNat * 2 ^ 16 + b.toNat * 2 ^ 8 + c.toNat := by
  rw [packRRR_toNat, h]
  rfl

/-! ### The result (R190) -/

/-- The result of an operation as a number, of its operands as numbers; a subtraction borrows 2^32. -/
def aluNat (f : AluOp) (x y : Nat) : Nat :=
  match f with
  | .add => (x + y) % 2 ^ 32
  | .sub => (x + 2 ^ 32 - y) % 2 ^ 32
  | .mul => x * y % 2 ^ 32
  | .div => x / y

/-- The machine's result is that number. -/
theorem aluResult_toNat (f : AluOp) (a b : Word) : (aluResult f a b).toNat = aluNat f a.toNat b.toNat := by
  cases f with
  | add => rw [aluResult_add, BitVec.toNat_add, aluNat]
  | sub =>
    rw [aluResult_sub, BitVec.toNat_sub, aluNat]
    have hb := b.isLt
    omega
  | mul => rw [aluResult_mul, BitVec.toNat_mul, aluNat]
  | div => rw [aluResult_div, BitVec.toNat_udiv, aluNat]

section
variable {f : AluOp} {s : State}

/-! ### The end of an arithmetic instruction (R136, R190, R275) -/

theorem aluAndAdvance_completes {r x y : Nat} {a b : Word} (hr : r < s.numRegs) (ha : a.toNat = x) (hb : b.toNat = y)
    (hdiv : f = .div → y ≠ 0) : Completes (aluAndAdvance f r a b s) (WritesReg r (aluNat f x y) s) := by
  subst ha hb
  obtain ⟨-, e⟩ | ⟨hf, hz, -⟩ := aluAndAdvance_cases f r a b s
  · rw [e]
    exact DataTransfer.writeAndAdvance_completes hr (aluResult_toNat f a b)
  · exact absurd hz (hdiv hf)

theorem aluAndAdvance_div_zero {r : Nat} {a b : Word} (hb : b.toNat = 0) :
    Faults (aluAndAdvance .div r a b s) s .divisionByZero := by
  obtain ⟨hne, -⟩ | ⟨-, -, e⟩ := aluAndAdvance_cases .div r a b s
  · exact absurd ⟨rfl, hb⟩ hne
  · exact e

/-! ### In place, against a literal (R133, mode I) -/

section
variable {d : BitVec 8} {v : BitVec 16}

theorem aluImmediate_pass (hd : d.toNat < s.numRegs) :
    aluInPlace f .immediate d v s = aluAndAdvance f d.toNat (s.reg d.toNat) (zext16 v) s :=
  checkRegs_pass _ (by simpa using hd)

theorem aluImmediate_completes (hd : d.toNat < s.numRegs) (hdiv : f = .div → v.toNat ≠ 0) :
    Completes (aluInPlace f .immediate d v s) (WritesReg d.toNat (aluNat f (s.reg d.toNat).toNat v.toNat) s) := by
  rw [aluImmediate_pass hd]
  exact aluAndAdvance_completes hd rfl (zext16_toNat v) hdiv

theorem aluImmediate_div_zero (hd : d.toNat < s.numRegs) (hv : v.toNat = 0) :
    Faults (aluInPlace .div .immediate d v s) s .divisionByZero := by
  rw [aluImmediate_pass hd]
  exact aluAndAdvance_div_zero ((zext16_toNat v).trans hv)

theorem aluImmediate_faults (hd : s.numRegs ≤ d.toNat) : Faults (aluInPlace f .immediate d v s) s .outOfBounds :=
  checkRegs_fail _ (by simpa using hd)

/-! ### In place, against a memory word (R133, mode D) -/

/-- In mode D the instruction is a checked read, as a direct load is. -/
theorem aluDirect_eq_checkedRead : aluInPlace f .direct d v s = checkRegs [d.toNat] s
    (withRead .word (zext16 v) s fun x => aluAndAdvance f d.toNat (s.reg d.toNat) x s) := rfl

theorem aluDirect_pass (hd : d.toNat < s.numRegs) (hv : v.toNat + 4 ≤ s.mem.size) :
    aluInPlace f .direct d v s = aluAndAdvance f d.toNat (s.reg d.toNat) (s.mem.load .word v.toNat) s := by
  rw [aluDirect_eq_checkedRead, checkRegs_pass _ (by simpa using hd),
    withRead_pass _ (by simpa [widthBytes] using hv), zext16_toNat]

theorem aluDirect_completes (hd : d.toNat < s.numRegs) (hv : v.toNat + 4 ≤ s.mem.size)
    (hdiv : f = .div → memNat s.mem v.toNat 4 ≠ 0) :
    Completes (aluInPlace f .direct d v s)
      (WritesReg d.toNat (aluNat f (s.reg d.toNat).toNat (memNat s.mem v.toNat 4)) s) := by
  rw [aluDirect_pass hd hv]
  exact aluAndAdvance_completes hd rfl (DataTransfer.load_toNat s.mem .word v.toNat) hdiv

theorem aluDirect_div_zero (hd : d.toNat < s.numRegs) (hv : v.toNat + 4 ≤ s.mem.size)
    (hz : memNat s.mem v.toNat 4 = 0) : Faults (aluInPlace .div .direct d v s) s .divisionByZero := by
  rw [aluDirect_pass hd hv]
  exact aluAndAdvance_div_zero ((DataTransfer.load_toNat s.mem .word v.toNat).trans hz)

/-- Of any operation: a divisor that cannot be read is never found to be zero. -/
theorem aluDirect_faults (h : s.numRegs ≤ d.toNat ∨ s.mem.size < v.toNat + 4) :
    Faults (aluInPlace f .direct d v s) s .outOfBounds := by
  rw [aluDirect_eq_checkedRead]
  exact DataTransfer.checkedLoad_faults (by simpa [widthBytes] using h)

end

/-! ### On three registers (R138, mode R) -/

section
variable {d a b : BitVec 8}

theorem aluRegisters_pass (hd : d.toNat < s.numRegs) (ha : a.toNat < s.numRegs) (hb : b.toNat < s.numRegs) :
    aluRegisters f d a b s = aluAndAdvance f d.toNat (s.reg a.toNat) (s.reg b.toNat) s :=
  checkRegs_pass _ (by simpa using ⟨hd, ha, hb⟩)

theorem aluRegisters_completes (hd : d.toNat < s.numRegs) (ha : a.toNat < s.numRegs) (hb : b.toNat < s.numRegs)
    (hdiv : f = .div → (s.reg b.toNat).toNat ≠ 0) :
    Completes (aluRegisters f d a b s)
      (WritesReg d.toNat (aluNat f (s.reg a.toNat).toNat (s.reg b.toNat).toNat) s) := by
  rw [aluRegisters_pass hd ha hb]
  exact aluAndAdvance_completes hd rfl rfl hdiv

theorem aluRegisters_div_zero (hd : d.toNat < s.numRegs) (ha : a.toNat < s.numRegs) (hb : b.toNat < s.numRegs)
    (hz : s.reg b.toNat = 0) : Faults (aluRegisters .div d a b s) s .divisionByZero := by
  rw [aluRegisters_pass hd ha hb]
  exact aluAndAdvance_div_zero (congrArg BitVec.toNat hz)

theorem aluRegisters_faults (h : s.numRegs ≤ d.toNat ∨ s.numRegs ≤ a.toNat ∨ s.numRegs ≤ b.toNat) :
    Faults (aluRegisters f d a b s) s .outOfBounds :=
  checkRegs_fail _ (by simpa using h)

end
end

/-! ### The statements about arithmetic -/

/-- Settles O35: the three forms of the addition, which no second operand faults. -/
theorem addInstructions : Obligations.AddInstructions :=
  ⟨fun _ _ => ⟨DataTransfer.packRV_toNat_of_head rfl, DataTransfer.packRV_toNat_of_head rfl⟩,
    fun _ _ _ => packRRR_toNat_of_head rfl,
    fun _ _ _ => ⟨fun hd => aluImmediate_completes (f := .add) hd nofun, aluImmediate_faults,
      fun hd hv => aluDirect_completes (f := .add) hd hv nofun, aluDirect_faults⟩,
    fun _ _ _ _ => ⟨fun hd ha hb => aluRegisters_completes (f := .add) hd ha hb nofun, aluRegisters_faults⟩⟩

/-- Settles O36: the three forms of the subtraction, which no second operand faults. -/
theorem subtractInstructions : Obligations.SubtractInstructions :=
  ⟨fun _ _ => ⟨DataTransfer.packRV_toNat_of_head rfl, DataTransfer.packRV_toNat_of_head rfl⟩,
    fun _ _ _ => packRRR_toNat_of_head rfl,
    fun _ _ _ => ⟨fun hd => aluImmediate_completes (f := .sub) hd nofun, aluImmediate_faults,
      fun hd hv => aluDirect_completes (f := .sub) hd hv nofun, aluDirect_faults⟩,
    fun _ _ _ _ => ⟨fun hd ha hb => aluRegisters_completes (f := .sub) hd ha hb nofun, aluRegisters_faults⟩⟩

/-- Settles O37: the three forms of the multiplication, which no second operand faults. -/
theorem multiplyInstructions : Obligations.MultiplyInstructions :=
  ⟨fun _ _ => ⟨DataTransfer.packRV_toNat_of_head rfl, DataTransfer.packRV_toNat_of_head rfl⟩,
    fun _ _ _ => packRRR_toNat_of_head rfl,
    fun _ _ _ => ⟨fun hd => aluImmediate_completes (f := .mul) hd nofun, aluImmediate_faults,
      fun hd hv => aluDirect_completes (f := .mul) hd hv nofun, aluDirect_faults⟩,
    fun _ _ _ _ => ⟨fun hd ha hb => aluRegisters_completes (f := .mul) hd ha hb nofun, aluRegisters_faults⟩⟩

/-- Settles O38: the three forms of the division by a divisor that is not zero, the checks that come before the
divisor is looked at, and the three forms by zero. -/
theorem divideInstructions : Obligations.DivideInstructions :=
  ⟨fun _ _ => ⟨DataTransfer.packRV_toNat_of_head rfl, DataTransfer.packRV_toNat_of_head rfl⟩,
    fun _ _ _ => packRRR_toNat_of_head rfl,
    fun _ _ _ => ⟨fun hd hv => aluImmediate_completes (f := .div) hd fun _ => hv, aluImmediate_faults,
      fun hd hv hw => aluDirect_completes (f := .div) hd hv fun _ => hw, aluDirect_faults⟩,
    fun _ _ _ _ => ⟨fun hd ha hb hne =>
        aluRegisters_completes (f := .div) hd ha hb fun _ hz => hne (BitVec.eq_of_toNat_eq hz),
      aluRegisters_faults⟩,
    fun _ _ _ hd => ⟨aluImmediate_div_zero hd, aluDirect_div_zero hd⟩,
    fun _ _ _ _ => aluRegisters_div_zero⟩

end Sys2Proof.Arithmetic
end

section
/-!
Comparison (spec 43_comparison.md R210 to R228). Each of the eighteen instructions is one operation at one of three
operand forms. `cmpNat` names the result of R210 as plain numbers; what each form writes to the flag, and what it
faults on, is said once for all six operations (R133), and `comparison_outcomes` collects the three forms.
-/
namespace Sys2Proof.Comparison
open Sys2Proof.Machine

/-! ### The result (R210) -/

/-- The result of a comparison of two numbers. -/
def cmpNat (f : CmpOp) (x y : Nat) : Bool :=
  match f with
  | .eq => decide (x = y)
  | .neq => decide (x ≠ y)
  | .gt => decide (x > y)
  | .gte => decide (x ≥ y)
  | .lt => decide (x < y)
  | .lte => decide (x ≤ y)

/-- The machine compares words as the numbers they are, unsigned. -/
theorem cmpHolds_eq_cmpNat (f : CmpOp) (a b : Word) : cmpHolds f a b = cmpNat f a.toNat b.toNat := by
  cases f with
  | eq | neq | gt | gte | lt | lte => rfl

section
variable {f : CmpOp} {s : State} {p : BitVec 8} {v : BitVec 16}

/-! ### The end of a comparison (R24, R136) -/

/-- Writing the flag and advancing pc changes nothing else. -/
theorem writesFlag_setFlag_advance (b : Bool) (s : State) : WritesFlag b s (s.setFlag b).advance where
  value := rfl
  regs := ⟨rfl, fun _ => rfl⟩
  pc := rfl
  mem := ⟨rfl, fun _ => rfl⟩
  control := ⟨rfl, rfl, rfl, rfl⟩

theorem flagAndAdvance_cmpHolds_completes {a b : Word} {y : Nat} (hb : b.toNat = y) :
    Completes (flagAndAdvance (cmpHolds f a b) s) (WritesFlag (cmpNat f a.toNat y) s) := by
  subst hb
  rw [cmpHolds_eq_cmpNat]
  exact ⟨_, rfl, writesFlag_setFlag_advance _ s⟩

/-! ### Against a literal (R133, mode I) -/

theorem compareImmediate_completes (hp : p.toNat < s.numRegs) :
    Completes (compareValue f .immediate p v s) (WritesFlag (cmpNat f (s.reg p.toNat).toNat v.toNat) s) := by
  rw [compareValue, checkRegs_pass _ (by simpa using hp)]
  exact flagAndAdvance_cmpHolds_completes (zext16_toNat v)

theorem compareImmediate_faults (hp : s.numRegs ≤ p.toNat) :
    Faults (compareValue f .immediate p v s) s .outOfBounds :=
  checkRegs_fail _ (by simpa using hp)

/-! ### Against a memory word (R133, mode D) -/

/-- In mode D the instruction is a checked read, as a direct load is. -/
theorem compareDirect_eq_checkedRead : compareValue f .direct p v s = checkRegs [p.toNat] s
    (withRead .word (zext16 v) s fun x => flagAndAdvance (cmpHolds f (s.reg p.toNat) x) s) := rfl

theorem compareDirect_completes (hp : p.toNat < s.numRegs) (hv : v.toNat + 4 ≤ s.mem.size) :
    Completes (compareValue f .direct p v s)
      (WritesFlag (cmpNat f (s.reg p.toNat).toNat (memNat s.mem v.toNat 4)) s) := by
  rw [compareDirect_eq_checkedRead, checkRegs_pass _ (by simpa using hp),
    withRead_pass _ (by simpa [widthBytes] using hv), zext16_toNat]
  exact flagAndAdvance_cmpHolds_completes (DataTransfer.load_toNat s.mem .word v.toNat)

theorem compareDirect_faults (h : s.numRegs ≤ p.toNat ∨ s.mem.size < v.toNat + 4) :
    Faults (compareValue f .direct p v s) s .outOfBounds := by
  rw [compareDirect_eq_checkedRead]
  exact DataTransfer.checkedLoad_faults (by simpa [widthBytes] using h)

/-! ### Against a register (R133, mode R) -/

theorem compareRegisters_completes (hp : p.toNat < s.numRegs) (hv : v.toNat < s.numRegs) :
    Completes (compareRegisters f p v s)
      (WritesFlag (cmpNat f (s.reg p.toNat).toNat (s.reg v.toNat).toNat) s) := by
  rw [compareRegisters, checkRegs_pass _ (by simpa using ⟨hp, hv⟩)]
  exact flagAndAdvance_cmpHolds_completes rfl

theorem compareRegisters_faults (h : s.numRegs ≤ p.toNat ∨ s.numRegs ≤ v.toNat) :
    Faults (compareRegisters f p v s) s .outOfBounds :=
  checkRegs_fail _ (by simpa using h)

end

/-! ### The three forms together -/

/-- What the three forms of a comparison answer, clause by clause. -/
theorem comparison_outcomes (f : CmpOp) (s : State) (p : BitVec 8) (v : BitVec 16) :
    (p.toNat < s.numRegs →
      Completes (compareValue f .immediate p v s) (WritesFlag (cmpNat f (s.reg p.toNat).toNat v.toNat) s)) ∧
    (s.numRegs ≤ p.toNat → Faults (compareValue f .immediate p v s) s .outOfBounds) ∧
    (p.toNat < s.numRegs → v.toNat + 4 ≤ s.mem.size →
      Completes (compareValue f .direct p v s)
        (WritesFlag (cmpNat f (s.reg p.toNat).toNat (memNat s.mem v.toNat 4)) s)) ∧
    ((s.numRegs ≤ p.toNat ∨ s.mem.size < v.toNat + 4) → Faults (compareValue f .direct p v s) s .outOfBounds) ∧
    (p.toNat < s.numRegs → v.toNat < s.numRegs →
      Completes (compareRegisters f p v s)
        (WritesFlag (cmpNat f (s.reg p.toNat).toNat (s.reg v.toNat).toNat) s)) ∧
    ((s.numRegs ≤ p.toNat ∨ s.numRegs ≤ v.toNat) → Faults (compareRegisters f p v s) s .outOfBounds) :=
  ⟨compareImmediate_completes, compareImmediate_faults, compareDirect_completes, compareDirect_faults,
    compareRegisters_completes, compareRegisters_faults⟩

/-- The three words of a comparison: its opcode with the modes I, D and R (R84, R94). -/
theorem comparison_words {op : BitVec 6} {head : Nat} (h : op.toNat * 67108864 = head) (p : BitVec 8)
    (v : BitVec 16) :
    (packRV op mdI p v).toNat = head + p.toNat * 2 ^ 16 + v.toNat ∧
      (packRV op mdD p v).toNat = head + 0x01000000 + p.toNat * 2 ^ 16 + v.toNat ∧
      (packRV op mdR p v).toNat = head + 0x02000000 + p.toNat * 2 ^ 16 + v.toNat := by
  exact ⟨DataTransfer.packRV_toNat_of_head (by rw [h]; rfl), DataTransfer.packRV_toNat_of_head (by rw [h]; rfl),
    DataTransfer.packRV_toNat_of_head (by rw [h]; rfl)⟩

/-! ### The statements about comparisons -/

/-- Settles O39: the words of opcode 12 and the three forms of "equal". -/
theorem equalComparisons : Obligations.EqualComparisons := fun s p v =>
  ⟨comparison_words rfl p v, comparison_outcomes .eq s p v⟩

/-- Settles O40: the words of opcode 13 and the three forms of "not equal". -/
theorem notEqualComparisons : Obligations.NotEqualComparisons := fun s p v =>
  ⟨comparison_words rfl p v, comparison_outcomes .neq s p v⟩

/-- Settles O41: the words of opcode 14 and the three forms of "greater than". -/
theorem greaterThanComparisons : Obligations.GreaterThanComparisons := fun s p v =>
  ⟨comparison_words rfl p v, comparison_outcomes .gt s p v⟩

/-- Settles O42: the words of opcode 15 and the three forms of "greater than or equal". -/
theorem greaterOrEqualComparisons : Obligations.GreaterOrEqualComparisons := fun s p v =>
  ⟨comparison_words rfl p v, comparison_outcomes .gte s p v⟩

/-- Settles O43: the words of opcode 16 and the three forms of "less than". -/
theorem lessThanComparisons : Obligations.LessThanComparisons := fun s p v =>
  ⟨comparison_words rfl p v, comparison_outcomes .lt s p v⟩

/-- Settles O44: the words of opcode 17 and the three forms of "less than or equal". -/
theorem lessOrEqualComparisons : Obligations.LessOrEqualComparisons := fun s p v =>
  ⟨comparison_words rfl p v, comparison_outcomes .lte s p v⟩

end Sys2Proof.Comparison
end

section
/-!
Control transfer (spec 44_control_transfer.md R240 to R249). Each of the nine instructions is one jump under one of
three conditions, in one of three modes. What each mode does when the jump is taken, and that a jump not taken only
advances pc, is said once for all three conditions; the two conditional jumps differ only in the flag that takes them.
-/
namespace Sys2Proof.ControlTransfer
open Sys2Proof.Machine

/-! ### Words (R85, R94) -/

/-- A word of class A24 as a number, from the number of its opcode and mode. -/
theorem packA24_toNat_of_head {op : BitVec 6} {md : BitVec 2} {v : BitVec 24} {head : Nat}
    (h : op.toNat * 67108864 + md.toNat * 16777216 = head) : (packA24 op md v).toNat = head + v.toNat := by
  rw [packA24_toNat, h]

/-! ### pc set, and nothing else (R136, R240) -/

/-- A completed jump to a target: pc holds it and nothing else changed, and the target is checked by the next fetch. -/
abbrev JumpedTo (target : Word) (s t : State) : Prop := SetsPc target s t ∧ NextFetchFaults t

theorem setsPc_jumpTo (target : Word) (s : State) : SetsPc target s (s.jumpTo target) where
  pc := rfl
  regs := ⟨rfl, fun _ => rfl⟩
  flag := rfl
  mem := ⟨rfl, fun _ => rfl⟩
  control := ⟨rfl, rfl, rfl, rfl⟩

theorem advance_eq_jumpTo (s : State) : s.advance = s.jumpTo (s.pc + 4) := rfl

/-- A jump looks at no bound of memory: the fetch after it does, as in every state. -/
theorem jumpTo_completes (target : Word) (s : State) :
    Completes (.next (s.jumpTo target)) (JumpedTo target s) :=
  ⟨_, rfl, setsPc_jumpTo target s, Dispatch.nextFetchFaults _⟩

theorem jumpTo_completes_of_toNat {target : Word} {n : Nat} (s : State) (h : target.toNat = n) :
    Completes (.next (s.jumpTo target)) (JumpedTo (BitVec.ofNat 32 n) s) := by
  subst h
  rw [BitVec.ofNat_toNat, BitVec.setWidth_eq]
  exact jumpTo_completes target s

section
variable {c : Cond} {m : Mode} {s : State} {v : BitVec 24}

/-! ### Not taken, in any mode -/

theorem jumpTarget_not_taken (hc : condHolds c s.flag = false) : jumpTarget c m v s = .next s.advance := by
  obtain ⟨-, e⟩ | ⟨htaken, -⟩ := jumpTarget_cases c m v s
  · exact e
  · exact absurd (hc.symm.trans htaken) Bool.false_ne_true

/-- The pointer of mode D may lie anywhere: a jump that is not taken does not read it (R135). -/
theorem jumpTarget_not_taken_completes (hc : condHolds c s.flag = false) :
    Completes (jumpTarget c m v s) (SetsPc (s.pc + 4) s) := by
  rw [jumpTarget_not_taken hc, advance_eq_jumpTo]
  exact ⟨_, rfl, setsPc_jumpTo _ s⟩

theorem jumpRegister_not_taken_completes (hc : condHolds c s.flag = false) (hv : v.toNat < s.numRegs) :
    Completes (jumpRegister c v s) (SetsPc (s.pc + 4) s) := by
  rw [jumpRegister, checkRegs_pass _ (by simpa using hv)]
  exact jumpTarget_not_taken_completes hc

/-! ### Taken (R135) -/

theorem jumpTarget_taken (hc : condHolds c s.flag = true) :
    jumpTarget c m v s = withTarget24 m v s fun t => .next (s.jumpTo t) :=
  if_pos hc

theorem jumpImmediate_completes (hc : condHolds c s.flag = true) :
    Completes (jumpTarget c .immediate v s) (JumpedTo (BitVec.ofNat 32 v.toNat) s) := by
  rw [jumpTarget_taken hc]
  exact jumpTo_completes_of_toNat s (zext24_toNat v)

/-- In mode D a jump that is taken is a checked read of its target. -/
theorem jumpDirect_eq_checkedRead (hc : condHolds c s.flag = true) :
    jumpTarget c .direct v s = withRead .word (zext24 v) s fun t => .next (s.jumpTo t) :=
  jumpTarget_taken hc

theorem jumpDirect_completes (hc : condHolds c s.flag = true) (hv : v.toNat + 4 ≤ s.mem.size) :
    Completes (jumpTarget c .direct v s) (JumpedTo (BitVec.ofNat 32 (memNat s.mem v.toNat 4)) s) := by
  rw [jumpDirect_eq_checkedRead hc, withRead_pass _ (by simpa [widthBytes] using hv), zext24_toNat]
  exact jumpTo_completes_of_toNat s (DataTransfer.load_toNat s.mem .word v.toNat)

theorem jumpDirect_faults (hc : condHolds c s.flag = true) (hv : s.mem.size < v.toNat + 4) :
    Faults (jumpTarget c .direct v s) s .outOfBounds := by
  rw [jumpDirect_eq_checkedRead hc]
  exact withRead_fail _ (by simpa [widthBytes] using hv)

theorem jumpRegister_completes (hc : condHolds c s.flag = true) (hv : v.toNat < s.numRegs) :
    Completes (jumpRegister c v s) (JumpedTo (s.reg v.toNat) s) := by
  rw [jumpRegister, checkRegs_pass _ (by simpa using hv), jumpTarget_taken hc]
  exact jumpTo_completes _ s

/-! ### The register check, taken or not (R131) -/

theorem jumpRegister_faults (hv : s.numRegs ≤ v.toNat) : Faults (jumpRegister c v s) s .outOfBounds :=
  checkRegs_fail _ (by simpa using hv)

end

/-! ### The forms together -/

/-- The three words of a jump: its opcode with the modes I, D and R (R84, R94). -/
theorem jump_words {op : BitVec 6} {head : Nat} (h : op.toNat * 67108864 = head) (v : BitVec 24) :
    (packA24 op mdI v).toNat = head + v.toNat ∧ (packA24 op mdD v).toNat = head + 0x01000000 + v.toNat ∧
      (packA24 op mdR v).toNat = head + 0x02000000 + v.toNat :=
  ⟨packA24_toNat_of_head (by rw [h]; rfl), packA24_toNat_of_head (by rw [h]; rfl),
    packA24_toNat_of_head (by rw [h]; rfl)⟩

/-- What the three forms of a conditional jump answer, clause by clause, where `b` is the flag that takes it. -/
theorem conditionalJump_outcomes {c : Cond} {b : Bool} (hc : ∀ flag, condHolds c flag = true ↔ flag = b) (s : State)
    (v : BitVec 24) :
    (s.flag = b → Completes (jumpTarget c .immediate v s) (JumpedTo (BitVec.ofNat 32 v.toNat) s)) ∧
    (s.flag = b → v.toNat + 4 ≤ s.mem.size →
      Completes (jumpTarget c .direct v s) (JumpedTo (BitVec.ofNat 32 (memNat s.mem v.toNat 4)) s)) ∧
    (s.flag = b → s.mem.size < v.toNat + 4 → Faults (jumpTarget c .direct v s) s .outOfBounds) ∧
    (s.flag = b → v.toNat < s.numRegs → Completes (jumpRegister c v s) (JumpedTo (s.reg v.toNat) s)) ∧
    (s.numRegs ≤ v.toNat → Faults (jumpRegister c v s) s .outOfBounds) ∧
    (s.flag = !b →
      Completes (jumpTarget c .immediate v s) (SetsPc (s.pc + 4) s) ∧
      Completes (jumpTarget c .direct v s) (SetsPc (s.pc + 4) s) ∧
      (v.toNat < s.numRegs → Completes (jumpRegister c v s) (SetsPc (s.pc + 4) s))) := by
  have taken (hb : s.flag = b) : condHolds c s.flag = true := (hc _).mpr hb
  have notTaken (hb : s.flag = !b) : condHolds c s.flag = false := by simp [← Bool.not_eq_true, hc, hb]
  exact ⟨fun hb => jumpImmediate_completes (taken hb), fun hb => jumpDirect_completes (taken hb),
    fun hb => jumpDirect_faults (taken hb), fun hb => jumpRegister_completes (taken hb), jumpRegister_faults,
    fun hb => ⟨jumpTarget_not_taken_completes (notTaken hb), jumpTarget_not_taken_completes (notTaken hb),
      jumpRegister_not_taken_completes (notTaken hb)⟩⟩

theorem condHolds_ifSet_iff (flag : Bool) : condHolds .ifSet flag = true ↔ flag = true := Iff.rfl

theorem condHolds_ifClear_iff (flag : Bool) : condHolds .ifClear flag = true ↔ flag = false := by
  simp [condHolds]

/-! ### The statements about jumps -/

/-- Settles O45: the words of opcode 18 and the three forms of the jump that every flag takes. -/
theorem jumpAlwaysInstructions : Obligations.JumpAlwaysInstructions := fun _ v =>
  ⟨jump_words rfl v, jumpImmediate_completes (c := .always) rfl, jumpDirect_completes (c := .always) rfl,
    jumpDirect_faults (c := .always) rfl, jumpRegister_completes (c := .always) rfl,
    jumpRegister_faults (c := .always)⟩

/-- Settles O46: the words of opcode 19 and the three forms of the jump that the flag true takes. -/
theorem jumpIfSetInstructions : Obligations.JumpIfSetInstructions := fun s v =>
  ⟨jump_words rfl v, conditionalJump_outcomes condHolds_ifSet_iff s v⟩

/-- Settles O47: the words of opcode 20 and the three forms of the jump that the flag false takes. -/
theorem jumpIfClearInstructions : Obligations.JumpIfClearInstructions := fun s v =>
  ⟨jump_words rfl v, conditionalJump_outcomes condHolds_ifClear_iff s v⟩

end Sys2Proof.ControlTransfer
end

section
/-!
Special instructions (spec 45_special.md R260 to R266). The three forms of PRTS are one string scan at three start
addresses: `ScansFrom` says what R260 answers for a start, `scanAndAdvance_scansFrom` that the scan does so, and each
form is shown to be the scan at its start. HLT and IGL are their words and one next state each.
-/
namespace Sys2Proof.Special
open Sys2Proof.Machine

/-! ### The string at an address (R260) -/

/-- The string up to the first zero byte is what the scan finds: a shorter one would end at a byte that is not zero,
a longer one would hold the terminator. -/
theorem string_of_first_zero {m : Memory} {a n : Nat} (hn : a + n < m.size) (hz : m.byte (a + n) = 0)
    (hne : ∀ k, k < n → m.byte (a + k) ≠ 0) :
    ∃ r, m.string a = some r ∧ r.length = n ∧ ∀ k, k < n → r.getD k 0 = m.byte (a + k) := by
  cases hs : m.string a with
  | none => exact absurd hz ((Memory.scanFrom_eq_none m a _).mp hs n (by omega))
  | some r =>
    obtain ⟨-, hend, hbytes⟩ := (Memory.scanFrom_eq_some m a _ r).mp hs
    have hlen : r.length = n := by
      rcases Nat.lt_trichotomy r.length n with hlt | heq | hgt
      · exact absurd hend (hne _ hlt)
      · exact heq
      · exact absurd hz (hbytes n hgt).1
    exact ⟨r, rfl, hlen, fun k hk => (hbytes k (hlen ▸ hk)).2⟩

theorem string_eq_none_of_no_zero {m : Memory} {a : Nat} (h : ∀ k, a + k < m.size → m.byte (a + k) ≠ 0) :
    m.string a = none :=
  (Memory.scanFrom_eq_none m a _).mpr fun k hk => h k (by omega)

/-! ### The scan as an instruction's end (R136, R260) -/

/-- Appending a record and advancing pc changes nothing else. -/
theorem emits_emit_advance (record : List Byte) (s : State) : Emits record s (s.emit record).advance where
  out := rfl
  regs := ⟨rfl, fun _ => rfl⟩
  pc := rfl
  flag := rfl
  mem := ⟨rfl, fun _ => rfl⟩
  status := rfl
  reason := rfl
  stop := rfl

/-- What R260 answers for the start address `a`: the string there as one record, or one of its two faults. -/
structure ScansFrom (a : Nat) (s : State) (o : Result) : Prop where
  outOfBounds  : s.mem.size ≤ a → Faults o s .outOfBounds
  emits        : ∀ n, a + n < s.mem.size → s.mem.byte (a + n) = 0 → (∀ k, k < n → s.mem.byte (a + k) ≠ 0) →
    ∃ record : List Byte, record.length = n ∧ (∀ k, k < n → record.getD k 0 = s.mem.byte (a + k)) ∧
      Completes o (Emits record s)
  unterminated : a < s.mem.size → (∀ k, a + k < s.mem.size → s.mem.byte (a + k) ≠ 0) →
    Faults o s .unterminatedString

theorem scanAndAdvance_scansFrom (a : Word) (s : State) : ScansFrom a.toNat s (scanAndAdvance a s) where
  outOfBounds h := by
    obtain ⟨hlt, -⟩ | ⟨hlt, -⟩ | ⟨-, e⟩ := scanAndAdvance_cases a s
    · omega
    · omega
    · exact e
  emits n hn hz hne := by
    obtain ⟨r, hr, hlen, hbytes⟩ := string_of_first_zero hn hz hne
    have e : scanAndAdvance a s = .next (s.emit r).advance := by
      rw [scanAndAdvance, if_pos (by omega), hr]
    exact ⟨r, hlen, hbytes, _, e, emits_emit_advance r s⟩
  unterminated hlt hne := by
    have e : scanAndAdvance a s = .next (s.raise .unterminatedString) := by
      rw [scanAndAdvance, if_pos hlt, string_eq_none_of_no_zero hne]
    exact e

/-! ### The start address of each form (R133, R135) -/

section
variable {s : State} {v : BitVec 24}

theorem prtsi_scansFrom : ScansFrom v.toNat s (exec (.prtsi v) s) := by
  have h := scanAndAdvance_scansFrom (zext24 v) s
  rwa [zext24_toNat] at h

/-- PRTSD is a checked read of its start address. -/
theorem exec_prtsd (v : BitVec 24) (s : State) :
    exec (.prtsd v) s = withRead .word (zext24 v) s fun a => scanAndAdvance a s := rfl

theorem prtsd_scansFrom (hv : v.toNat + 4 ≤ s.mem.size) :
    ScansFrom (memNat s.mem v.toNat 4) s (exec (.prtsd v) s) := by
  have h := scanAndAdvance_scansFrom (s.mem.load .word v.toNat) s
  rw [DataTransfer.load_toNat] at h
  rwa [exec_prtsd, withRead_pass _ (by simpa [widthBytes] using hv), zext24_toNat]

theorem prtsd_pointer_faults (hv : s.mem.size < v.toNat + 4) : Faults (exec (.prtsd v) s) s .outOfBounds := by
  rw [exec_prtsd]
  exact withRead_fail _ (by simpa [widthBytes] using hv)

theorem prtsr_scansFrom (hv : v.toNat < s.numRegs) :
    ScansFrom (s.reg v.toNat).toNat s (exec (.prtsr v) s) := by
  have e : exec (.prtsr v) s = scanAndAdvance (s.reg v.toNat) s := checkRegs_pass _ (by simpa using hv)
  rw [e]
  exact scanAndAdvance_scansFrom _ s

theorem prtsr_index_faults (hv : s.numRegs ≤ v.toNat) : Faults (exec (.prtsr v) s) s .outOfBounds :=
  checkRegs_fail _ (by simpa using hv)

end

/-- Settles O48: the words of opcode 21, which has the modes of a jump, and the scan at each form's start. -/
theorem printStringInstructions : Obligations.PrintStringInstructions := fun _ v =>
  ⟨ControlTransfer.jump_words rfl v, prtsi_scansFrom.outOfBounds, prtsi_scansFrom.emits, prtsi_scansFrom.unterminated,
    prtsd_pointer_faults, fun hv => (prtsd_scansFrom hv).outOfBounds, fun n hv => (prtsd_scansFrom hv).emits n,
    fun hv => (prtsd_scansFrom hv).unterminated,
    prtsr_index_faults, fun hv => (prtsr_scansFrom hv).outOfBounds, fun n hv => (prtsr_scansFrom hv).emits n,
    fun hv => (prtsr_scansFrom hv).unterminated⟩

/-! ### HLT (R265) -/

/-- The words of HLT are those of opcode 22 and mode 0, whatever their bits 23:0 are (R93). -/
theorem decodeWord_eq_hlt_iff (w : Word) : decodeWord w = .instr .hlt ↔ w.toNat / 2 ^ 24 = 0x58 := by
  constructor
  · intro hd
    have hop : 22 = w.toNat / 2 ^ 26 := Encoding.instrOpcode_of_decodeWord hd
    have hlegal : ¬ ∃ why, decodeWord w = .illegal why := by simp [hd]
    rw [Encoding.decodeWord_illegal_iff] at hlegal
    omega
  · intro hw
    rw [decodeWord_op22 w (by rw [opField_toNat]; omega)]
    obtain ⟨-, hp⟩ | ⟨hmd, -⟩ := pickNoMode_cases (mdField w) .hlt
    · exact hp
    · rw [mdField_toNat] at hmd
      omega

theorem step_of_halted {s : State} (h : s.status = .halted) : step s = .fault (.terminal .halted) := by
  unfold step; rw [h]

/-- Settles O49: the words by `decodeWord_eq_hlt_iff` and R91 (c) and (e), the halted state, which has no step, and the
fetch check of every state. -/
theorem haltInstruction : Obligations.HaltInstruction := by
  refine ⟨⟨rfl, decodeWord_eq_hlt_iff⟩, fun w hlo hhi => ?_, fun s => ⟨s.halt, rfl, rfl, fun u => ?_⟩,
    Dispatch.nextFetchFaults⟩
  · have hop : w.toNat / 2 ^ 26 = 22 := by omega
    have hmd : w.toNat / 2 ^ 24 % 4 ≠ 0 := by omega
    exact (Encoding.decodeWord_illegal_iff w).mpr ⟨by omega, by omega⟩
  · rw [step_of_halted (s := s.halt) rfl]
    exact nofun

/-! ### IGL (R266) -/

theorem exec_igl_faults (s : State) : Faults (exec .igl s) s .illegalInstruction := rfl

theorem memNat_eq_zero {m : Memory} {a n : Nat} (h : ∀ k, k < n → m.byte (a + k) = 0) : memNat m a n = 0 := by
  induction n generalizing a with
  | zero => rfl
  | succ n ih =>
    have hfirst : m.byte a = 0 := h 0 n.succ_pos
    have hrest : memNat m (a + 1) n = 0 := ih fun k hk => by
      rw [Nat.add_assoc, Nat.add_comm 1 k]
      exact h (k + 1) (by omega)
    simp [memNat, hfirst, hrest]

/-- Zeroed memory holds words of IGL. -/
theorem memNat_eq_encode_igl {m : Memory} {a : Nat} (h : ∀ k, k < 4 → m.byte (a + k) = 0) :
    memNat m a 4 = (encode .igl).toNat :=
  memNat_eq_zero h

/-- Settles O50: the words of opcode 0, the fault, and the fetch of zeroed memory or past memory. -/
theorem illegalOpcodeInstruction : Obligations.IllegalOpcodeInstruction := by
  refine ⟨⟨rfl, fun w => ?_⟩, exec_igl_faults, fun s hr hs => ⟨fun hin hz => ?_, Dispatch.nextFetchFaults s hr hs⟩⟩
  · rw [Encoding.decodeWord_eq_igl_iff]
    omega
  · rw [DataTransfer.nextFetchReads s hr hs hin .igl (memNat_eq_encode_igl hz)]
    exact exec_igl_faults s.afterSample

end Sys2Proof.Special
end

section
/-!
IllegalInstruction (spec 60_exceptions.md R272). The four ways a cycle can end (stopped, no fetch, no instruction, an
instruction) are settled one by one. The only instruction that raises the reason is IGL, by `exec_cases`; so whether
the reason is raised is decided by what the fetched word decodes to, and that by its opcode and mode, by R91.
-/
namespace Sys2Proof.Exceptions
open Sys2Proof.Machine

/-- The answer is a next state with the reason IllegalInstruction. -/
abbrev RaisesIllegal (o : Result) : Prop := Completes o fun t => t.reason = .illegalInstruction

theorem raisesIllegal_next_iff (t : State) : RaisesIllegal (.next t) ↔ t.reason = .illegalInstruction := by
  simp [Completes]

/-! ### Which instruction raises it (R266, R272) -/

/-- Of all the forms an instruction's next state can have, only a fault of IGL sets the reason. -/
theorem eq_igl_of_effect {i : Instr} {s t : State} (hs : s.reason ≠ .illegalInstruction) (he : Effect i s t)
    (ht : t.reason = .illegalInstruction) : i = .igl := by
  cases he with
  | fault r _ hi => exact hi ht
  | writeReg | writeFlag | store | jump | fall | print | halt => exact absurd ht hs

theorem exec_raisesIllegal_iff {i : Instr} {s : State} (hs : s.reason ≠ .illegalInstruction) :
    RaisesIllegal (exec i s) ↔ i = .igl := by
  constructor
  · rintro ⟨t, ht, hreason⟩
    obtain ⟨u, hu, he⟩ := exec_cases i s
    obtain rfl : t = u := Host.Outcome.next.inj (ht.symm.trans hu)
    exact eq_igl_of_effect hs he hreason
  · rintro rfl
    exact ⟨_, Special.exec_igl_faults s, rfl⟩

/-! ### The ways a cycle can end (R122, R126, R272, R273) -/

theorem cycle_of_stopSampled {s : State} (h : s.stopSampled = true) : cycle s = .next s.afterSample.cancel := by
  unfold cycle; rw [if_pos h]

/-- The word a cycle fetches, as the number memory holds, decides what the decoder answers. -/
theorem decode_bytesFrom (m : Memory) (a : Nat) : decode (m.bytesFrom a 4) = decodeWord (m.load .word a) := rfl

section
variable {s : State}

theorem cycle_of_illegal {why : Illegal} (hs : s.stopSampled = false) (h : s.pc.toNat + 4 ≤ s.mem.size)
    (hd : decode (s.mem.bytesFrom s.pc.toNat 4) = .illegal why) :
    cycle s = .next (s.afterSample.raise .illegalInstruction) := by
  unfold cycle
  rw [if_neg (by simp [hs]), DataTransfer.withFetch_pass (s := s.afterSample) _ h]
  simp only [State.afterSample_mem, State.afterSample_pc, hd]

/-- A cycle that fetches raises IllegalInstruction for a word that decodes to IGL or to no instruction. -/
theorem cycle_raisesIllegal_iff_decode (hreason : s.reason ≠ .illegalInstruction) (hs : s.stopSampled = false)
    (h : s.pc.toNat + 4 ≤ s.mem.size) :
    RaisesIllegal (cycle s) ↔
      decodeWord (s.mem.load .word s.pc.toNat) = .instr .igl ∨
        ∃ why, decodeWord (s.mem.load .word s.pc.toNat) = .illegal why := by
  rw [← decode_bytesFrom]
  cases hd : decode (s.mem.bytesFrom s.pc.toNat 4) with
  | instr i =>
    rw [DataTransfer.cycle_of_fetch hs h hd, exec_raisesIllegal_iff (s := s.afterSample) hreason]
    simp
  | illegal why =>
    rw [cycle_of_illegal hs h hd, raisesIllegal_next_iff]
    simp

/-- By R91 those are the words whose opcode and mode are an illegal pair. -/
theorem cycle_raisesIllegal_iff_pair (hreason : s.reason ≠ .illegalInstruction) (hs : s.stopSampled = false)
    (h : s.pc.toNat + 4 ≤ s.mem.size) :
    RaisesIllegal (cycle s) ↔
      IllegalPair (memNat s.mem s.pc.toNat 4 / 2 ^ 26) (memNat s.mem s.pc.toNat 4 / 2 ^ 24 % 4) := by
  have hword : (s.mem.load .word s.pc.toNat).toNat = memNat s.mem s.pc.toNat 4 := DataTransfer.load_toNat _ _ _
  rw [cycle_raisesIllegal_iff_decode hreason hs h, ← hword]
  exact Encoding.illegalWordsExactly.1 _

theorem not_raisesIllegal_of_stopSampled (hreason : s.reason ≠ .illegalInstruction) (hs : s.stopSampled = true) :
    ¬ RaisesIllegal (cycle s) := by
  rw [cycle_of_stopSampled hs, raisesIllegal_next_iff]
  exact hreason

theorem not_raisesIllegal_of_fetch_outOfBounds (hs : s.stopSampled = false) (h : s.mem.size < s.pc.toNat + 4) :
    ¬ RaisesIllegal (cycle s) := by
  rw [Dispatch.cycle_of_fetch_outOfBounds hs h, raisesIllegal_next_iff]
  exact nofun

end

/-- Settles O7: a stopped cycle and one that cannot fetch do not raise the reason, and every other does so by R91. -/
theorem illegalInstructionByWordAlone : Obligations.IllegalInstructionByWordAlone := by
  intro s hr hreason
  rw [Dispatch.step_of_running hr]
  cases hs : s.stopSampled with
  | true => exact iff_of_false (not_raisesIllegal_of_stopSampled hreason hs) fun ⟨hfalse, _⟩ => nomatch hfalse
  | false =>
    by_cases hin : s.pc.toNat + 4 ≤ s.mem.size
    · have hpair := cycle_raisesIllegal_iff_pair hreason hs hin
      exact ⟨fun ht => ⟨rfl, hin, hpair.mp ht⟩, fun ⟨_, _, hp⟩ => hpair.mpr hp⟩
    · exact iff_of_false (not_raisesIllegal_of_fetch_outOfBounds hs (by omega)) fun ⟨_, h, _⟩ => hin h

end Sys2Proof.Exceptions
end

section
/-!
Construction from an image and stores into code (spec 70_reset_and_hazards.md R301, R302, R312). After a load that fits,
every byte of memory is the payload's (`load_byte`). Bytes that hold the base-256 digits of a number read as that
number (`memNat_eq_mod`): so the code words a load places and the instruction word a store leaves are read back.
-/
namespace Sys2Proof.ResetAndHazards
open Sys2Proof.Machine

/-! ### Memory as a number (R53) -/

/-- Bytes that hold the base-256 digits of a number, the highest first, read as its low digits. -/
theorem memNat_eq_mod {m : Memory} {a n x : Nat}
    (h : ∀ k, k < n → (m.byte (a + k)).toNat = x / 256 ^ (n - 1 - k) % 256) : memNat m a n = x % 256 ^ n := by
  induction n generalizing a with
  | zero => simp [memNat, Nat.mod_one]
  | succ n ih =>
    have hfirst : (m.byte a).toNat = x / 256 ^ n % 256 := h 0 (by omega)
    have hrest : memNat m (a + 1) n = x % 256 ^ n := ih fun k hk => by
      rw [show a + 1 + k = a + (k + 1) by omega, h (k + 1) (by omega),
        show n + 1 - 1 - (k + 1) = n - 1 - k by omega]
    rw [memNat, hfirst, hrest, Nat.mod_pow_succ]
    ring

/-- Four bytes that are those of a word read as the word (R51). -/
theorem memNat_of_bytesOfWord {m : Memory} {a : Nat} {w : Word}
    (h : ∀ k, k < 4 → m.byte (a + k) = (bytesOfWord w).getD k 0) : memNat m a 4 = w.toNat := by
  have hdigits : memNat m a 4 = w.toNat % 256 ^ 4 := memNat_eq_mod fun k hk => by
    rw [h k hk]
    exact DataTransfer.storeBytes_getD_toNat .word w hk
  rw [hdigits]
  exact Nat.mod_eq_of_lt w.isLt

/-! ### The payload (R51, R301) -/

theorem length_flatMap_bytesOfWord (ws : List Word) : (ws.flatMap bytesOfWord).length = 4 * ws.length := by
  induction ws with
  | nil => rfl
  | cons w ws ih =>
    rw [List.flatMap_cons, List.length_append, ih, List.length_cons, Nat.mul_succ, Nat.add_comm]
    rfl

theorem payload_length (img : Image) : img.payload.length = img.data.length + 4 * img.code.length := by
  rw [Image.payload, List.length_append, length_flatMap_bytesOfWord]

/-- The bytes of word `j` stand from `4 * j` up. -/
theorem flatMap_bytesOfWord_getD {ws : List Word} {j k : Nat} (hj : j < ws.length) (hk : k < 4) :
    (ws.flatMap bytesOfWord).getD (4 * j + k) 0 = (bytesOfWord (ws.getD j 0)).getD k 0 := by
  induction ws generalizing j with
  | nil => simp at hj
  | cons w ws ih =>
    have hlen : (bytesOfWord w).length = 4 := rfl
    rw [List.flatMap_cons]
    cases j with
    | zero =>
      rw [List.getD_append _ _ _ _ (by omega), Nat.mul_zero, Nat.zero_add, List.getD_cons_zero]
    | succ j =>
      rw [List.getD_append_right _ _ _ _ (by omega), hlen, show 4 * (j + 1) + k - 4 = 4 * j + k by omega,
        ih (Nat.lt_of_succ_lt_succ hj), List.getD_cons_succ]

theorem payload_getD_data {img : Image} {a : Nat} (ha : a < img.data.length) :
    img.payload.getD a 0 = img.data.getD a 0 :=
  List.getD_append _ _ _ _ ha

theorem payload_getD_code {img : Image} {j k : Nat} (hj : j < img.code.length) (hk : k < 4) :
    img.payload.getD (img.data.length + 4 * j + k) 0 = (bytesOfWord (img.code.getD j 0)).getD k 0 := by
  rw [Image.payload, List.getD_append_right _ _ _ _ (by omega),
    show img.data.length + 4 * j + k - img.data.length = 4 * j + k by omega, flatMap_bytesOfWord_getD hj hk]

/-! ### The two loads (R301, R302) -/

section
variable {img : Image} {ms : Nat} (nr : Nat) (stop : List Bool)

theorem load_of_fits (h : img.payload.length ≤ ms) :
    State.load img ms nr stop =
      { regs := List.replicate nr 0, pc := img.entry, flag := false
        mem := (Memory.zeros ms).writeBytes 0 img.payload
        status := .running, reason := .none, out := [], stop := stop } :=
  if_pos h

theorem load_of_oversized (h : ms < img.payload.length) :
    State.load img ms nr stop =
      { regs := List.replicate nr 0, pc := img.entry, flag := false
        mem := Memory.zeros ms
        status := .faulted, reason := .outOfBounds, out := [], stop := stop } :=
  if_neg (by omega)

/-- Every byte is the payload's, and zero past its end. -/
theorem load_byte (h : img.payload.length ≤ ms) (a : Nat) :
    (State.load img ms nr stop).mem.byte a = img.payload.getD a 0 := by
  rw [load_of_fits nr stop h, Memory.byte_writeBytes]
  split
  · rfl
  · next hout => exact (List.getD_eq_default _ _ (by omega)).symm

theorem load_memNat_code (h : img.payload.length ≤ ms) {j : Nat} (hj : j < img.code.length) :
    memNat (State.load img ms nr stop).mem (img.data.length + 4 * j) 4 = (img.code.getD j 0).toNat :=
  memNat_of_bytesOfWord fun k hk => by rw [load_byte nr stop h, payload_getD_code hj hk]

/-- What the two loads have in common; the memory differs, but not its size. -/
theorem load_components (img : Image) (ms : Nat) :
    ∃ (m : Memory) (st : Status) (r : Reason), m.size = ms ∧
      State.load img ms nr stop =
        { regs := List.replicate nr 0, pc := img.entry, flag := false, mem := m
          status := st, reason := r, out := [], stop := stop } := by
  obtain hover | hfits := Nat.lt_or_ge ms img.payload.length
  · exact ⟨_, _, _, rfl, load_of_oversized nr stop hover⟩
  · exact ⟨_, _, _, Memory.writeBytes_size _ _ _, load_of_fits nr stop hfits⟩

end

/-- No step leaves Faulted (R121, R123). -/
theorem step_of_faulted {s : State} (h : s.status = .faulted) : step s = .fault (.terminal .faulted) := by
  unfold step; rw [h]

/-- Settles O18: what both loads leave, then each by its equation; the payload's bytes by `load_byte`. -/
theorem loadBuildsResetState : Obligations.LoadBuildsResetState := by
  intro img ms nr stop
  rw [← payload_length]
  refine ⟨?_, fun hfits => ?_, fun hover => ?_, fun _ => rfl⟩
  · obtain ⟨m, st, r, hsize, e⟩ := load_components nr stop img ms
    rw [e]
    refine ⟨fun k => ?_, List.length_replicate, rfl, rfl, rfl, hsize⟩
    simp [State.reg, List.getElem?_getD_replicate_default_eq]
  · have e := load_of_fits nr stop hfits
    refine ⟨by rw [e], by rw [e], fun a ha => ?_, fun j hj => load_memNat_code nr stop hfits hj, fun a ha => ?_⟩
    · rw [load_byte nr stop hfits, payload_getD_data ha]
    · rw [load_byte nr stop hfits, List.getD_eq_default _ _ ha]
  · have e := load_of_oversized nr stop hover
    have hfaulted : (State.load img ms nr stop).status = .faulted := by rw [e]
    refine ⟨hfaulted, by rw [e], fun a => by rw [e]; rfl, fun t => ?_⟩
    rw [step_of_faulted hfaulted]
    exact nofun

/-! ### A store into code (R312) -/

/-- The bytes of a store, read back as a number (R53, R54). -/
theorem memNat_of_storesBytes {a n x : Nat} {s t : State} (h : StoresBytes a n x s t) :
    memNat t.mem a n = x % 256 ^ n :=
  memNat_eq_mod h.stored

/-- An instruction's word stored on the four bytes that follow the store is what the next step runs. -/
theorem step_of_storesBytes {s t : State} {a : Nat} {i : Instr} (hr : s.status = .running)
    (hs : s.stopSampled = false) (ha : a + 4 ≤ s.mem.size) (hpc : t.pc.toNat = a)
    (hst : StoresBytes a 4 (encode i).toNat s t) (hnext : NextFetchReads t) : step t = exec i t.afterSample := by
  obtain ⟨hstatus, -, -, hstop⟩ := hst.control
  refine hnext (hstatus.trans hr) ?_ ?_ i ?_
  · rwa [State.stopSampled, hstop]
  · rwa [hpc, hst.size]
  · rw [hpc, memNat_of_storesBytes hst]
    exact Nat.mod_eq_of_lt (encode i).isLt

/-- Settles O24: the next fetch reads memory as it stands, after a store as in every state; and STRD onto the
following four bytes leaves an instruction's word there and pc at it. -/
theorem storedInstructionIsFetched : Obligations.StoredInstructionIsFetched := by
  refine ⟨fun _ _ t _ _ _ => DataTransfer.nextFetchReads t, fun s r v i hr hs hreg hv hpc hi => ?_⟩
  have hfits : (eaDirect v).toNat + widthBytes .word ≤ s.mem.size := (zext16_toNat v).symm ▸ hv
  obtain ⟨hea, t, ht, hst, hnext⟩ := DataTransfer.storeDirect_completes (wd := .word) rfl hreg hfits
  rw [hea, hi] at hst
  have hpc' : t.pc.toNat = v.toNat := by
    have hlt := v.isLt
    rw [hst.pc, BitVec.toNat_add_of_lt (by simp; omega), hpc]
    rfl
  exact ⟨t, ht, hpc', step_of_storesBytes hr hs hv hpc' hst hnext⟩

end Sys2Proof.ResetAndHazards
end

section
/-!
Decoding and encoding are inverse (spec 30_encoding.md R85, R93, 40_fsm_dispatch.md R129). One direction is
`DataTransfer.decodeWord_encode`. For the other, a packed word is put together from the word's own fields, class by
class, and the decoder takes exactly those fields; only MOV and HLT drop bits.
-/
namespace Sys2Proof.Encoding
open Sys2Proof.Machine

/-! ### A word from its own fields (R82, R83, R85) -/

section
variable {w : Word} {op : BitVec 6} {md : BitVec 2}

theorem packRV_fields (hop : opField w = op) (hmd : mdField w = md) : packRV op md (aField w) (v16Field w) = w := by
  subst hop hmd
  apply BitVec.eq_of_toNat_eq
  have := w.isLt
  rw [packRV_toNat, opField_toNat, mdField_toNat, aField_toNat, v16Field_toNat]
  omega

theorem packRRR_fields (hop : opField w = op) (hmd : mdField w = md) :
    packRRR op md (aField w) (bField w) (cField w) = w := by
  subst hop hmd
  apply BitVec.eq_of_toNat_eq
  have := w.isLt
  rw [packRRR_toNat, opField_toNat, mdField_toNat, aField_toNat, bField_toNat, cField_toNat]
  omega

theorem packA24_fields (hop : opField w = op) (hmd : mdField w = md) : packA24 op md (v24Field w) = w := by
  subst hop hmd
  apply BitVec.eq_of_toNat_eq
  have := w.isLt
  rw [packA24_toNat, opField_toNat, mdField_toNat, v24Field_toNat]
  omega

/-- Clearing bits 7:0 of a word of class RRR clears its field C. -/
theorem packRRR_and_mask (op : BitVec 6) (md : BitVec 2) (a b c : BitVec 8) :
    packRRR op md a b c &&& 0xFFFFFF00#32 = packRRR op md a b 0 := by
  have hmask : 0xFFFFFF00#32 = BitVec.allOnes 24 ++ 0#8 := rfl
  rw [packRRR, hmask, BitVec.and_append, BitVec.and_allOnes, BitVec.and_zero]
  rfl

/-- Clearing bits 23:0 of a word of class A24 clears its field V24. -/
theorem packA24_and_mask (op : BitVec 6) (md : BitVec 2) (v : BitVec 24) :
    packA24 op md v &&& 0xFF000000#32 = packA24 op md 0 := by
  have hmask : 0xFF000000#32 = BitVec.allOnes 8 ++ 0#24 := rfl
  rw [packA24, hmask, BitVec.and_append, BitVec.and_allOnes, BitVec.and_zero]
  rfl

/-! ### Encoding what was decoded, by the way the opcode chooses (R90) -/

/-- Whatever instruction is answered, its word is `u`. -/
def Recodes (u : Word) (d : Decoded) : Prop := ∀ i, d = .instr i → encode i = u

theorem recodes_instr {u : Word} {i : Instr} (h : encode i = u) : Recodes u (.instr i) := by
  rintro _ ⟨⟩
  exact h

theorem recodes_illegal (u : Word) (why : Illegal) : Recodes u (.illegal why) := nofun

variable {u : Word} {i d r : Instr}

theorem pickMode_recodes (hi : mdField w = mdI → encode i = u) (hd : mdField w = mdD → encode d = u)
    (hr : mdField w = mdR → encode r = u) : Recodes u (pickMode (mdField w) i d r) := by
  rcases pickMode_cases (mdField w) i d r with ⟨hm, hp⟩ | ⟨hm, hp⟩ | ⟨hm, hp⟩ | ⟨-, hp⟩ <;> rw [hp]
  · exact recodes_instr (hi (BitVec.eq_of_toNat_eq hm))
  · exact recodes_instr (hd (BitVec.eq_of_toNat_eq hm))
  · exact recodes_instr (hr (BitVec.eq_of_toNat_eq hm))
  · exact recodes_illegal _ _

theorem pickStoreMode_recodes (hd : mdField w = mdD → encode d = u) (hr : mdField w = mdR → encode r = u) :
    Recodes u (pickStoreMode (mdField w) d r) := by
  rcases pickStoreMode_cases (mdField w) d r with ⟨hm, hp⟩ | ⟨hm, hp⟩ | ⟨-, why, hp⟩ <;> rw [hp]
  · exact recodes_instr (hd (BitVec.eq_of_toNat_eq hm))
  · exact recodes_instr (hr (BitVec.eq_of_toNat_eq hm))
  · exact recodes_illegal _ _

theorem pickNoMode_recodes (hi : mdField w = mdI → encode i = u) : Recodes u (pickNoMode (mdField w) i) := by
  rcases pickNoMode_cases (mdField w) i with ⟨hm, hp⟩ | ⟨-, why, hp⟩ <;> rw [hp]
  · exact recodes_instr (hi (BitVec.eq_of_toNat_eq hm))
  · exact recodes_illegal _ _

/-! ### Every opcode -/

theorem opField_eq_ofNat {n : Nat} (h : (opField w).toNat = n) : opField w = BitVec.ofNat 6 n := by
  rw [← h, BitVec.ofNat_toNat, BitVec.setWidth_eq]

/-- Every row of R90 but those of IGL, MOV and HLT uses all the bits of its word. -/
theorem decodeWord_recodes {n : Nat} (hn : (opField w).toNat = n) (hn0 : n ≠ 0) (hn7 : n ≠ 7) (hn22 : n ≠ 22) :
    Recodes w (decodeWord w) := by
  have hop := opField_eq_ofNat hn
  have hclass : (1 ≤ n ∧ n ≤ 3) ∨ (12 ≤ n ∧ n ≤ 17) ∨ (4 ≤ n ∧ n ≤ 6) ∨ (8 ≤ n ∧ n ≤ 11) ∨ (18 ≤ n ∧ n ≤ 21) ∨
      23 ≤ n := by
    omega
  rcases hclass with ⟨hlo, hhi⟩ | ⟨hlo, hhi⟩ | ⟨hlo, hhi⟩ | ⟨hlo, hhi⟩ | ⟨hlo, hhi⟩ | hunassigned
  · interval_cases n
    all_goals
      simp only [decodeWord_op1, decodeWord_op2, decodeWord_op3, hn]
      exact pickMode_recodes (packRV_fields hop) (packRV_fields hop) (packRV_fields hop)
  · interval_cases n
    all_goals
      simp only [decodeWord_op12, decodeWord_op13, decodeWord_op14, decodeWord_op15, decodeWord_op16,
        decodeWord_op17, hn]
      exact pickMode_recodes (packRV_fields hop) (packRV_fields hop) (packRV_fields hop)
  · interval_cases n
    all_goals
      simp only [decodeWord_op4, decodeWord_op5, decodeWord_op6, hn]
      exact pickStoreMode_recodes (packRV_fields hop) (packRV_fields hop)
  · interval_cases n
    all_goals
      simp only [decodeWord_op8, decodeWord_op9, decodeWord_op10, decodeWord_op11, hn]
      exact pickMode_recodes (packRV_fields hop) (packRV_fields hop) (packRRR_fields hop)
  · interval_cases n
    all_goals
      simp only [decodeWord_op18, decodeWord_op19, decodeWord_op20, decodeWord_op21, hn]
      exact pickMode_recodes (packA24_fields hop) (packA24_fields hop) (packA24_fields hop)
  · rw [decodeWord_unassigned w (hn ▸ hunassigned)]
    exact recodes_illegal _ _

/-- MOV's row has no field for the bits 7:0 (R93). -/
theorem decodeWord_recodes_mov (hn : (opField w).toNat = 7) : Recodes (w &&& 0xFFFFFF00#32) (decodeWord w) := by
  rw [decodeWord_op7 w hn]
  refine pickNoMode_recodes fun hmd => ?_
  calc packRRR 7 mdI (aField w) (bField w) 0
    _ = packRRR 7 mdI (aField w) (bField w) (cField w) &&& 0xFFFFFF00#32 := (packRRR_and_mask _ _ _ _ _).symm
    _ = w &&& 0xFFFFFF00#32 :=
      congrArg (· &&& 0xFFFFFF00#32) (packRRR_fields (opField_eq_ofNat hn) hmd)

/-- HLT's row has no field for the bits 23:0 (R93). -/
theorem decodeWord_recodes_hlt (hn : (opField w).toNat = 22) : Recodes (w &&& 0xFF000000#32) (decodeWord w) := by
  rw [decodeWord_op22 w hn]
  refine pickNoMode_recodes fun hmd => ?_
  calc packA24 22 mdI 0
    _ = packA24 22 mdI (v24Field w) &&& 0xFF000000#32 := (packA24_and_mask _ _ _).symm
    _ = w &&& 0xFF000000#32 :=
      congrArg (· &&& 0xFF000000#32) (packA24_fields (opField_eq_ofNat hn) hmd)

/-- The opcode field of a word is the opcode of the instruction it decodes to. -/
theorem opField_of_decodeWord (h : decodeWord w = .instr i) : (opField w).toNat = instrOpcode i := by
  rw [opField_toNat, instrOpcode_of_decodeWord h]
  rfl

end

/-- Settles O1: the decoder undoes the encoder, and every row of R90 is encoded from the word's own fields. -/
theorem encodeDecodeRoundTrip : Obligations.EncodeDecodeRoundTrip := by
  refine ⟨fun i => ?_, fun w i hd hi => ?_⟩
  · calc decode (encodeBytes i)
      _ = decodeWord (encode i) := congrArg decodeWord (wordOfBytes_bytesOfWord (encode i))
      _ = .instr i := DataTransfer.decodeWord_encode i
  · have hop := opField_of_decodeWord hd
    cases i with
    | igl => contradiction
    | mov => exact decodeWord_recodes_mov (by simpa [instrOpcode, encode] using hop) _ hd
    | hlt => exact decodeWord_recodes_hlt (by simpa [instrOpcode, encode] using hop) _ hd
    | _ =>
      refine decodeWord_recodes hop ?_ ?_ ?_ _ hd
      all_goals simp [instrOpcode, encode]

/-- Settles O3: the eleven words of the table. -/
theorem decodeSampleWords : Obligations.DecodeSampleWords := by
  unfold Obligations.DecodeSampleWords
  decide

end Sys2Proof.Encoding
end

section
/-!
What one step can do (spec 40_fsm_dispatch.md R120 to R126, 60_exceptions.md R270 to R276). `StepEffect` lists the four
ways a cycle can end; together with `exec_cases`, which lists the forms of an instruction's next state, it answers what
a step may change. `writesOnly_of_effect` says what each form of an instruction leaves as it was.
-/
namespace Sys2Proof.StepEffects
open Sys2Proof.Machine

/-! ### The ways a step can end (R122) -/

/-- The next state of a step from a running state, by the phase in which the cycle ends. -/
inductive StepEffect (s : State) : State → Prop where
  /-- STOP was sampled true (R273). -/
  | cancelled (hs : s.stopSampled = true) : StepEffect s s.afterSample.cancel
  /-- The four bytes at pc do not all lie in memory (R126). -/
  | noFetch (hs : s.stopSampled = false) (hout : s.mem.size < s.pc.toNat + 4) :
      StepEffect s (s.afterSample.raise .outOfBounds)
  /-- The fetched word is no instruction (R272). -/
  | noInstr (hs : s.stopSampled = false) (hin : s.pc.toNat + 4 ≤ s.mem.size) (why : Illegal)
      (hd : decodeWord (s.mem.load .word s.pc.toNat) = .illegal why) :
      StepEffect s (s.afterSample.raise .illegalInstruction)
  /-- The fetched word's instruction ran. -/
  | executed (hs : s.stopSampled = false) (hin : s.pc.toNat + 4 ≤ s.mem.size) (i : Instr)
      (hd : decodeWord (s.mem.load .word s.pc.toNat) = .instr i) (t : State) (he : exec i s.afterSample = .next t) :
      StepEffect s t

/-- From a running state a step always has a next state. -/
theorem step_cases {s : State} (hr : s.status = .running) : ∃ t, step s = .next t ∧ StepEffect s t := by
  rw [Dispatch.step_of_running hr]
  cases hs : s.stopSampled with
  | true => exact ⟨_, Exceptions.cycle_of_stopSampled hs, .cancelled hs⟩
  | false =>
    obtain hin | hout := Nat.lt_or_ge s.mem.size (s.pc.toNat + 4) |>.symm
    · cases hd : decode (s.mem.bytesFrom s.pc.toNat 4) with
      | illegal why => exact ⟨_, Exceptions.cycle_of_illegal hs hin hd, .noInstr hs hin why hd⟩
      | instr i =>
        obtain ⟨t, he, -⟩ := exec_cases i s.afterSample
        exact ⟨t, (DataTransfer.cycle_of_fetch hs hin hd).trans he, .executed hs hin i hd t he⟩
    · exact ⟨_, Dispatch.cycle_of_fetch_outOfBounds hs hout, .noFetch hs hout⟩

/-- No step leaves a terminal state (R121, R123); the fault that says so is the model's (log 4). -/
theorem step_of_terminal {s : State} (h : s.status ≠ .running) : step s = .fault (.terminal s.status) := by
  unfold step
  cases hs : s.status with
  | running => contradiction
  | halted | faulted | cancelled => rfl

/-- Only a running state has a next state, and it is one of the four. -/
theorem stepEffect_of_step {s t : State} (h : step s = .next t) : s.status = .running ∧ StepEffect s t := by
  by_cases hr : s.status = .running
  · obtain ⟨u, hu, he⟩ := step_cases hr
    obtain rfl : t = u := Host.Outcome.next.inj (h.symm.trans hu)
    exact ⟨hr, he⟩
  · rw [step_of_terminal hr] at h
    exact nomatch h

theorem effect_of_exec {i : Instr} {s t : State} (h : exec i s = .next t) : Effect i s t := by
  obtain ⟨u, hu, he⟩ := exec_cases i s
  obtain rfl : t = u := Host.Outcome.next.inj (h.symm.trans hu)
  exact he

/-! ### What an instruction writes (R55, R139, R276) -/

/-- No form of an instruction's next state touches the stop input. -/
theorem stop_of_effect {i : Instr} {s t : State} (he : Effect i s t) : t.stop = s.stop := by
  cases he <;> rfl

/-- Every form of an instruction's next state writes at most the one component its opcode may write. -/
theorem writesOnly_of_effect {i : Instr} {s t : State} (he : Effect i s t) : WritesOnly i s t where
  regs k hk := by
    cases he with
    | writeReg r v hr =>
      have hne : k ≠ r := fun e => hk (e ▸ hr)
      exact State.setReg_reg_ne s r k v hne
    | fault | writeFlag | store | jump | fall | print | halt => rfl
  count := by
    cases he with
    | writeReg r v => exact State.setReg_numRegs s r v
    | fault | writeFlag | store | jump | fall | print | halt => rfl
  mem b hb := by
    cases he with
    | store wd a v _ hs => exact Memory.byte_store_outside s.mem wd a b v (hb a _ hs)
    | fault | writeReg | writeFlag | jump | fall | print | halt => rfl
  size := by
    cases he with
    | store wd a v => exact Memory.store_size s.mem wd a v
    | fault | writeReg | writeFlag | jump | fall | print | halt => rfl
  flag ho := by
    cases he with
    | writeFlag b hop => exact absurd hop ho
    | fault | writeReg | store | jump | fall | print | halt => rfl
  out := by
    cases he with
    | print record _ hop => exact .inr ⟨hop, record, rfl⟩
    | fault | writeReg | writeFlag | store | jump | fall | halt => exact .inl rfl
  stop := stop_of_effect he

/-- An instruction that does not fault and is not HLT keeps the status. -/
theorem status_of_effect {i : Instr} {s t : State} (he : Effect i s t) :
    t.status = .faulted ∨ t.status = .halted ∧ i = .hlt ∨ t.status = s.status := by
  cases he with
  | fault => exact .inl rfl
  | halt hi => exact .inr (.inl ⟨rfl, hi⟩)
  | writeReg | writeFlag | store | jump | fall | print => exact .inr (.inr rfl)

/-- Settles O12: only the form `print` touches the output, and its record is a scanned string. -/
theorem onlyPrtsEmits : Obligations.OnlyPrtsEmits := by
  intro i s t h
  cases effect_of_exec h with
  | print record hr hop => exact .inr ⟨hop, record, hr, rfl⟩
  | fault | writeReg | writeFlag | store | jump | fall | halt => exact .inl rfl

/-- Settles O13: only the form `store` replaces memory, and no form changes the parameters. -/
theorem onlyStoresChangeMemory : Obligations.OnlyStoresChangeMemory := by
  intro i s t h
  have he := effect_of_exec h
  have hw := writesOnly_of_effect he
  refine ⟨fun hop => ?_, hw.size, hw.count⟩
  cases he with
  | store _ _ _ _ _ ho => exact absurd ho hop
  | fault | writeReg | writeFlag | jump | fall | print | halt => rfl

/-! ### Faults (R270, R276) -/

/-- From a running state, only the form `fault` ends Faulted. -/
theorem eq_raise_of_effect {i : Instr} {s t : State} (hr : s.status = .running) (he : Effect i s t)
    (ht : t.status = .faulted) : ∃ r, r ≠ .none ∧ t = s.raise r := by
  cases he with
  | fault r hne => exact ⟨r, hne, rfl⟩
  | writeReg | writeFlag | store | jump | fall | print =>
    have ht : s.status = .faulted := ht
    rw [hr] at ht
    exact nomatch ht
  | halt => exact nomatch ht

/-- A step that ends Faulted raised a reason in the state after the sample, and did nothing else. -/
theorem eq_raise_of_stepEffect {s t : State} (hr : s.status = .running) (he : StepEffect s t)
    (ht : t.status = .faulted) : ∃ r, r ≠ .none ∧ t = s.afterSample.raise r := by
  cases he with
  | cancelled => exact nomatch ht
  | noFetch => exact ⟨.outOfBounds, nofun, rfl⟩
  | noInstr => exact ⟨.illegalInstruction, nofun, rfl⟩
  | executed _ _ i _ _ he => exact eq_raise_of_effect (s := s.afterSample) hr (effect_of_exec he) ht

/-- Settles O9: a faulted step is a raise; what each instruction may write is `writesOnly_of_effect`. -/
theorem faultsArePrecise : Obligations.FaultsArePrecise := by
  refine ⟨fun s t hr h ht => ?_, fun i s t h => writesOnly_of_effect (effect_of_exec h),
    fun i s => ⟨destReg_isSome i, storeTarget_isSome i s⟩⟩
  obtain ⟨r, hne, rfl⟩ := eq_raise_of_stepEffect hr (stepEffect_of_step h).2 ht
  exact ⟨hne, rfl⟩

/-! ### The statements about the cycle -/

/-- Settles O4: the two ways a cycle that fetches can end. -/
theorem stepRunsDecodedInstruction : Obligations.StepRunsDecodedInstruction := by
  intro s hr hs hin
  rw [Dispatch.step_of_running hr]
  exact ⟨fun i hd => DataTransfer.cycle_of_fetch hs hin hd, fun why hd => Exceptions.cycle_of_illegal hs hin hd⟩

/-- The samples of a step budget: false in every cycle but cycle `n`. -/
theorem budgetStop_getD (n k : Nat) : (budgetStop n).getD k false = decide (k = n) := by
  obtain hlt | hge := Nat.lt_or_ge k n
  · rw [budgetStop, List.getD_append _ _ _ _ (by simpa using hlt)]
    simp [hlt, Nat.ne_of_lt hlt]
  · rw [budgetStop, List.getD_append_right _ _ _ _ (by simpa using hge), List.length_replicate]
    obtain rfl | hgt := hge.eq_or_lt
    · simp
    · rw [List.getD_eq_default _ _ (by simp; omega)]
      simp [Nat.ne_of_gt hgt]

/-- Settles O5: the stop check comes first in the cycle. -/
theorem stopSampledBeforeFetch : Obligations.StopSampledBeforeFetch :=
  ⟨fun _ hr hs => (Dispatch.step_of_running hr).trans (Exceptions.cycle_of_stopSampled hs), budgetStop_getD⟩

/-- Settles O26: the step and the final state of each terminal status. -/
theorem terminalStatesHaveNoStep : Obligations.TerminalStatesHaveNoStep := by
  intro s h
  have hstep := step_of_terminal h
  refine ⟨fun t => by rw [hstep]; exact nofun, hstep, ?_⟩
  unfold State.final
  cases hs : s.status with
  | running => contradiction
  | halted | faulted | cancelled => rfl

/-- The instruction decoded from the bytes at pc is HLT exactly if the first of them is 0x58 (R265). -/
theorem decodeWord_load_eq_hlt_iff (m : Memory) (a : Nat) :
    decodeWord (m.load .word a) = .instr .hlt ↔ memNat m a 4 / 2 ^ 24 = 0x58 := by
  rw [Special.decodeWord_eq_hlt_iff, DataTransfer.load_toNat]
  rfl

/-- A step ends Halted exactly if it fetched HLT. -/
theorem halted_iff_of_stepEffect {s t : State} (hr : s.status = .running) (he : StepEffect s t) :
    t.status = .halted ↔ s.stopSampled = false ∧ s.pc.toNat + 4 ≤ s.mem.size ∧
      decodeWord (s.mem.load .word s.pc.toNat) = .instr .hlt := by
  cases he with
  | cancelled hs => simp [hs]
  | noFetch _ hout => simp; omega
  | noInstr _ _ why hd => simp [hd]
  | executed hs hin i hd _ he =>
    simp only [hs, hin, hd, true_and, Decoded.instr.injEq]
    constructor
    · intro ht
      obtain h | ⟨-, hi⟩ | h := status_of_effect (effect_of_exec he)
      · exact absurd (ht.symm.trans h) nofun
      · exact hi
      · exact absurd (ht.symm.trans (h.trans hr)) nofun
    · rintro rfl
      cases he
      rfl

/-- A step ends Cancelled exactly if STOP was sampled true. -/
theorem cancelled_iff_of_stepEffect {s t : State} (hr : s.status = .running) (he : StepEffect s t) :
    t.status = .cancelled ↔ s.stopSampled = true := by
  cases he with
  | cancelled hs => simp [hs]
  | noFetch hs => simp [hs]
  | noInstr hs => simp [hs]
  | executed hs _ i _ _ he =>
    have hne : t.status ≠ .cancelled := by
      obtain h | ⟨h, -⟩ | h := status_of_effect (effect_of_exec he)
      · rw [h]; exact nofun
      · rw [h]; exact nofun
      · rw [h, State.afterSample_status, hr]; exact nofun
    simp [hs, hne]

/-- Settles O25: the four ways a step can end, each with its status. -/
theorem runningStatesStep : Obligations.RunningStatesStep := by
  intro s hr
  obtain ⟨t, ht, he⟩ := step_cases hr
  refine ⟨t, ht, cancelled_iff_of_stepEffect hr he, ?_⟩
  rw [← decodeWord_load_eq_hlt_iff]
  exact halted_iff_of_stepEffect hr he

end Sys2Proof.StepEffects
end

section
/-!
What holds along every run (spec 10_state.md R25 to R28, 70_reset_and_hazards.md R300 to R305, 60_exceptions.md R273).
Each property is shown of the load and of one step; `runSteps_induction` carries it to every state a run reaches. The
stop input is used up one sample per step, so a step budget on it ends the run.
-/
namespace Sys2Proof.Runs
open Sys2Proof.Machine

/-! ### One step (R8, R26, R28) -/

/-- Every form of an instruction's next state keeps the canonical form of memory. -/
theorem wf_of_effect {i : Instr} {s t : State} (he : Effect i s t) (h : s.mem.wf = true) : t.mem.wf = true := by
  cases he with
  | store wd a v ha => exact Memory.store_wf v h (by simpa using ha)
  | fault | writeReg | writeFlag | jump | fall | print | halt => exact h

/-- From a running state without a reason, an instruction sets a reason exactly if it faults. -/
theorem reason_iff_of_effect {i : Instr} {s t : State} (he : Effect i s t) (hr : s.status = .running)
    (hn : s.reason = .none) : t.reason = .none ↔ t.status ≠ .faulted := by
  cases he with
  | fault r hne => simp [hne]
  | writeReg | writeFlag | store | jump | fall | print | halt => simp [hr, hn]

/-- What the ways a step can end have in common: the parameters stay, and a sample of STOP is used up. -/
theorem parameters_of_stepEffect {s t : State} (he : StepEffects.StepEffect s t) :
    t.numRegs = s.numRegs ∧ t.mem.size = s.mem.size ∧ t.stop = s.stop.tail := by
  cases he with
  | cancelled | noFetch | noInstr => exact ⟨rfl, rfl, rfl⟩
  | executed _ _ i _ _ he =>
    have hw := StepEffects.writesOnly_of_effect (StepEffects.effect_of_exec he)
    exact ⟨hw.count, hw.size, hw.stop⟩

theorem wf_of_stepEffect {s t : State} (he : StepEffects.StepEffect s t) (h : s.mem.wf = true) : t.mem.wf = true := by
  cases he with
  | cancelled | noFetch | noInstr => exact h
  | executed _ _ i _ _ he => exact wf_of_effect (StepEffects.effect_of_exec he) h

theorem reason_iff_of_stepEffect {s t : State} (he : StepEffects.StepEffect s t) (hr : s.status = .running)
    (hn : s.reason = .none) : t.reason = .none ↔ t.status ≠ .faulted := by
  cases he with
  | cancelled => simp [hn]
  | noFetch | noInstr => simp
  | executed _ _ i _ _ he => exact reason_iff_of_effect (StepEffects.effect_of_exec he) hr hn

/-- Settles O16: each conjunct of the invariant is kept by each way a step can end. -/
theorem stepKeepsInvariant : Obligations.StepKeepsInvariant := by
  rintro s t ⟨hregs, hsize, hwf, hreason⟩ h
  obtain ⟨hr, he⟩ := StepEffects.stepEffect_of_step h
  obtain ⟨hcount, hms, -⟩ := parameters_of_stepEffect he
  have hn : s.reason = .none := hreason.mpr (by simp [hr])
  exact ⟨⟨hcount ▸ hregs, hms ▸ hsize, wf_of_stepEffect he hwf, reason_iff_of_stepEffect he hr hn⟩, hcount, hms⟩

/-! ### The load (R301, R302) -/

theorem zeros_wf (ms : Nat) : (Memory.zeros ms).wf = true := rfl

/-- Settles O52: both loads, the payload written where it fits and zeroed memory with a fault where it does not. -/
theorem loadMeetsInvariant : Obligations.LoadMeetsInvariant := by
  intro img ms nr stop
  obtain hover | hfits := Nat.lt_or_ge ms img.payload.length
  · rw [ResetAndHazards.load_of_oversized nr stop hover]
    refine ⟨fun hregs hsize => ⟨?_, hsize, zeros_wf ms, by simp⟩, rfl⟩
    simpa [State.numRegs] using hregs
  · rw [ResetAndHazards.load_of_fits nr stop hfits]
    refine ⟨fun hregs hsize => ⟨?_, ?_, ?_, by simp⟩, rfl⟩
    · simpa [State.numRegs] using hregs
    · simpa [Memory.zeros] using hsize
    · exact Memory.writeBytes_wf 0 img.payload (zeros_wf ms) (by simpa [Memory.zeros] using hfits)

/-- Settles O17: the reset state is a load of the empty image (`State.reset_eq_load`), at parameters in range. -/
theorem resetMeetsInvariant : Obligations.ResetMeetsInvariant := by
  have hinv : State.reset.Inv := by
    rw [State.reset_eq_load]
    exact (loadMeetsInvariant _ _ _ _).1 (by decide) (by decide)
  have hregs : ∀ k, State.reset.reg k = 0 := by
    rw [State.reset_eq_load]
    exact (ResetAndHazards.loadBuildsResetState _ _ _ _).1.1
  exact ⟨hinv, hregs, fun _ => rfl, rfl, rfl, rfl, rfl, rfl⟩

/-! ### Runs -/

theorem runSteps_succ_of_step {s t : State} (n : Nat) (h : step s = .next t) : runSteps (n + 1) s = runSteps n t := by
  rw [runSteps, h]

/-- A run of `n + 1` steps is a step and a run of `n` steps. -/
theorem step_of_runSteps_succ {n : Nat} {s t : State} (h : runSteps (n + 1) s = .next t) :
    ∃ u, step s = .next u ∧ runSteps n u = .next t := by
  cases hs : step s with
  | next u => exact ⟨u, rfl, (runSteps_succ_of_step n hs).symm.trans h⟩
  | fault r | refused r =>
    rw [runSteps, hs] at h
    exact nomatch h

/-- What a step keeps, a run keeps. -/
theorem runSteps_induction {P : State → Prop} (hstep : ∀ s t, P s → step s = .next t → P t) {n : Nat} {s t : State}
    (h0 : P s) (h : runSteps n s = .next t) : P t := by
  induction n generalizing s with
  | zero =>
    obtain rfl : s = t := Host.Outcome.next.inj h
    exact h0
  | succ n ih =>
    obtain ⟨u, hs, hu⟩ := step_of_runSteps_succ h
    exact ih (hstep s u h0 hs) hu

/-- No record of the output holds a zero byte (R260). -/
def OutputNonzero (s : State) : Prop := ∀ r ∈ s.out, ∀ x ∈ r, x ≠ 0

theorem outputNonzero_of_effect {i : Instr} {s t : State} (h : OutputNonzero s) (he : Effect i s t) :
    OutputNonzero t := by
  cases he with
  | print record hnew =>
    intro r hr
    obtain hold | rfl : r ∈ s.out ∨ r = record := by simpa using hr
    · exact h r hold
    · exact hnew
  | fault | writeReg | writeFlag | store | jump | fall | halt => exact h

theorem outputNonzero_of_stepEffect {s t : State} (h : OutputNonzero s) (he : StepEffects.StepEffect s t) :
    OutputNonzero t := by
  cases he with
  | cancelled | noFetch | noInstr => exact h
  | executed _ _ i _ _ he => exact outputNonzero_of_effect (s := s.afterSample) h (StepEffects.effect_of_exec he)

/-- What a run from a load keeps. -/
structure Loaded (ms nr : Nat) (s : State) : Prop where
  inv    : s.Inv
  count  : s.numRegs = nr
  size   : s.mem.size = ms
  output : OutputNonzero s

theorem loaded_load (img : Image) {ms nr : Nat} (stop : List Bool) (hnr : Config.NumRegsOK nr)
    (hms : Config.MemSizeOK ms) : Loaded ms nr (State.load img ms nr stop) := by
  obtain ⟨-, hcount, -, hout, -, hsize⟩ := (ResetAndHazards.loadBuildsResetState img ms nr stop).1
  refine ⟨(loadMeetsInvariant img ms nr stop).1 hnr hms, hcount, hsize, fun r hr => ?_⟩
  rw [hout] at hr
  exact nomatch hr

theorem loaded_step {ms nr : Nat} (s t : State) (h : Loaded ms nr s) (hst : step s = .next t) : Loaded ms nr t := by
  obtain ⟨hinv, hcount, hsize⟩ := stepKeepsInvariant s t h.inv hst
  exact ⟨hinv, hcount.trans h.count, hsize.trans h.size,
    outputNonzero_of_stepEffect h.output (StepEffects.stepEffect_of_step hst).2⟩

/-- Settles O19: the load has the properties of `Loaded` and every step keeps them. -/
theorem reachableFromLoad : Obligations.ReachableFromLoad := by
  intro img ms nr n stop t hnr hms h
  obtain ⟨hinv, hcount, hsize, hout⟩ := runSteps_induction loaded_step (loaded_load img stop hnr hms) h
  exact ⟨hinv, hcount, hsize, hout⟩

/-! ### An image without code (R305) -/

theorem afterSample_of_stop_nil {s : State} (h : s.stop = []) : s.afterSample = s := by
  cases s
  subst h
  rfl

/-- Settles O20: pc is at the first byte past the data, and the bytes from there on are zero, so a word of IGL if they
are four (`Special.illegalOpcodeInstruction`). -/
theorem emptyCodeSectionFaults : Obligations.EmptyCodeSectionFaults := by
  intro img ms nr hcode hentry hdata
  obtain ⟨⟨-, -, -, -, hpc, hsize⟩, hloaded, -, -⟩ := ResetAndHazards.loadBuildsResetState img ms nr []
  rw [hcode, List.length_nil, Nat.mul_zero, Nat.add_zero] at hloaded
  obtain ⟨hstatus, -, -, -, hzero⟩ := hloaded hdata
  have hstop := (loadMeetsInvariant img ms nr []).2
  generalize State.load img ms nr [] = s at *
  have hsampled : s.stopSampled = false := by rw [State.stopSampled, hstop]; rfl
  obtain ⟨hillegal, hout⟩ := Special.illegalOpcodeInstruction.2.2 s hstatus hsampled
  rw [afterSample_of_stop_nil hstop, hpc, hentry, hsize] at hillegal hout
  exact ⟨fun hfour => hillegal hfour fun k _ => hzero _ (Nat.le_add_right _ k), hout⟩

/-! ### A step budget (R273) -/

theorem stop_of_step {s t : State} (h : step s = .next t) : t.stop = s.stop.tail :=
  (parameters_of_stepEffect (StepEffects.stepEffect_of_step h).2).2.2

/-- A run uses up one sample of STOP per step. -/
theorem stop_of_runSteps {n : Nat} {s t : State} (h : runSteps n s = .next t) : t.stop = s.stop.drop n := by
  induction n generalizing s with
  | zero =>
    obtain rfl : s = t := Host.Outcome.next.inj h
    rfl
  | succ n ih =>
    obtain ⟨u, hs, hu⟩ := step_of_runSteps_succ h
    rw [ih hu, stop_of_step hs, List.drop_tail]

theorem drop_budgetStop (n : Nat) : (budgetStop n).drop n = [true] := by
  rw [budgetStop, List.drop_left' List.length_replicate]

/-- A running state whose next sample is true is cancelled, and nothing else of the spec's state changes. -/
theorem step_of_stop_eq {s : State} (hr : s.status = .running) (h : s.stop = [true]) :
    step s = .next { s with status := .cancelled, stop := [] } := by
  rw [StepEffects.stopSampledBeforeFetch.1 s hr (by rw [State.stopSampled, h]; rfl), h]
  rfl

/-- A budget of `n` cycles ends a run within `n + 1` steps: each step is the last, or leaves a budget of one less. -/
theorem budget_reaches_terminal {n : Nat} {s : State} (hr : s.status = .running) (hb : s.stop = budgetStop n) :
    ∃ k t, k ≤ n + 1 ∧ runSteps k s = .next t ∧ t.status ≠ .running := by
  induction n generalizing s with
  | zero => exact ⟨1, _, Nat.le_refl 1, runSteps_succ_of_step 0 (step_of_stop_eq hr hb), nofun⟩
  | succ n ih =>
    obtain ⟨u, hu, -⟩ := StepEffects.step_cases hr
    by_cases hrun : u.status = .running
    · have hbu : u.stop = budgetStop n := by rw [stop_of_step hu, hb]; rfl
      obtain ⟨k, t, hk, ht, hterm⟩ := ih hrun hbu
      exact ⟨k + 1, t, Nat.succ_le_succ hk, (runSteps_succ_of_step k hu).trans ht, hterm⟩
    · exact ⟨1, u, by omega, runSteps_succ_of_step 0 hu, hrun⟩

/-- Settles O27: the budget by induction; after `n` steps its one sample left is the true one. -/
theorem budgetEndsEveryRun : Obligations.BudgetEndsEveryRun := by
  intro n s hr hb
  refine ⟨budget_reaches_terminal hr hb, fun t ht hrun => step_of_stop_eq hrun ?_⟩
  rw [stop_of_runSteps ht, hb, drop_budgetStop]

end Sys2Proof.Runs
end

section
/-!
Reading memory after a write (spec 20_memory.md R51 to R59), as numbers: `memNat_store_part` says what any in-range part
of the stored bytes reads as, `memNat_congr` that bytes not written read as before. The canonical form has one list per
memory: two lists in the form that read the same are compared entry by entry.
-/
namespace Sys2Proof.MemoryAccess
open Sys2Proof.Machine

/-! ### The checked write (R52, R54, R58) -/

/-- Settles O21: the two answers of the shared store operation. -/
theorem memWriteBytes : Obligations.MemWriteBytes := by
  intro wd a v s
  obtain ⟨hin, e⟩ | ⟨hout, e⟩ := storeAndAdvance_cases wd a v s
  · exact ⟨fun _ => ⟨_, e, DataTransfer.storesBytes_setMem_advance wd a.toNat v s⟩, fun h => by omega⟩
  · exact ⟨fun h => by omega, fun _ => e⟩

/-! ### Reads after a store (R53, R59) -/

/-- A number in memory is its bytes'. -/
theorem memNat_congr {m m' : Memory} {a n : Nat} (h : ∀ b, a ≤ b → b < a + n → m.byte b = m'.byte b) :
    memNat m a n = memNat m' a n := by
  induction n generalizing a with
  | zero => rfl
  | succ n ih =>
    have hrest : memNat m (a + 1) n = memNat m' (a + 1) n := ih fun b hlo hhi => h b (by omega) (by omega)
    rw [memNat, memNat, h a (by omega) (by omega), hrest]

/-- The `n` stored bytes from offset `k` read as the value without the bytes stored after them, modulo 256^n (R51,
R59). -/
theorem memNat_store_part (m : Memory) (wd : Width) (a : Nat) (v : Word) {k n : Nat} (h : k + n ≤ widthBytes wd) :
    memNat (m.store wd a v) (a + k) n = v.toNat / 256 ^ (widthBytes wd - k - n) % 256 ^ n := by
  refine ResetAndHazards.memNat_eq_mod fun j hj => ?_
  have hinside : k + j < widthBytes wd := by omega
  rw [Nat.add_assoc, Memory.byte_store_inside m wd a (k + j) v hinside, DataTransfer.storeBytes_getD_toNat wd v hinside,
    Nat.div_div_eq_div_mul, ← Nat.pow_add]
  congr 3
  omega

theorem load_store_same (m : Memory) (wd : Width) (a : Nat) (v : Word) :
    ((m.store wd a v).load wd a).toNat = v.toNat % 256 ^ widthBytes wd := by
  have h := memNat_store_part m wd a v (k := 0) (n := widthBytes wd) (by omega)
  rwa [Nat.sub_zero, Nat.sub_self, Nat.pow_zero, Nat.div_one, Nat.add_zero, ← DataTransfer.load_toNat] at h

theorem load_store_disjoint (m : Memory) (wd wd' : Width) (a b : Nat) (v : Word)
    (h : b + widthBytes wd' ≤ a ∨ a + widthBytes wd ≤ b) : (m.store wd a v).load wd' b = m.load wd' b := by
  apply BitVec.eq_of_toNat_eq
  rw [DataTransfer.load_toNat, DataTransfer.load_toNat]
  exact memNat_congr fun c hlo hhi => Memory.byte_store_outside m wd a c v (by omega)

/-- Settles O22: a load is the number its bytes are; all stored bytes, none of them, or a part of a word's. -/
theorem loadAfterStore : Obligations.LoadAfterStore := by
  refine ⟨load_store_same, load_store_disjoint, fun m a k v hk => ?_, fun m a k v hk => ?_⟩
  · rw [DataTransfer.load_toNat]
    have h := memNat_store_part m .word a v (k := k) (n := 2) (by simp only [widthBytes]; omega)
    rwa [show widthBytes .word - k - 2 = 2 - k by simp only [widthBytes]; omega] at h
  · rw [DataTransfer.load_toNat]
    have h := memNat_store_part m .word a v (k := k) (n := 1) (by simp only [widthBytes]; omega)
    rwa [show widthBytes .word - k - 1 = 3 - k by simp only [widthBytes]; omega] at h

/-! ### The canonical form (log 10) -/

theorem cellsWf_cons_iff {lo size a : Nat} {v : Byte} {cs : List Host.Cell} :
    cellsWf lo size ((a, v) :: cs) = true ↔
      lo ≤ a ∧ a < size ∧ v ≠ Memory.unlisted ∧ cellsWf (a + 1) size cs = true := by
  simp [cellsWf, and_assoc]

theorem readCell_cons_same (a : Nat) (v : Byte) (cs : List Host.Cell) : readCell ((a, v) :: cs) a = v := if_pos rfl

theorem readCell_cons_ne {a b : Nat} (v : Byte) (cs : List Host.Cell) (h : b ≠ a) :
    readCell ((a, v) :: cs) b = readCell cs b := if_neg h

/-- A list in the form lists nothing below its bound. -/
theorem readCell_of_lt {lo size a : Nat} {cs : List Host.Cell} (h : cellsWf lo size cs = true) (ha : a < lo) :
    readCell cs a = Memory.unlisted := by
  induction cs generalizing lo with
  | nil => rfl
  | cons c cs ih =>
    obtain ⟨hlo, -, -, hcs⟩ := cellsWf_cons_iff.mp h
    rw [readCell_cons_ne c.2 cs (by omega)]
    exact ih hcs (by omega)

/-- The first address a list in the form lists is not below that of a list that reads the same. -/
theorem head_le_of_readCell_eq {lo size a a' : Nat} {v v' : Byte} {cs cs' : List Host.Cell}
    (h : cellsWf lo size ((a, v) :: cs) = true) (h' : cellsWf lo size ((a', v') :: cs') = true)
    (heq : ∀ b, b < size → readCell ((a, v) :: cs) b = readCell ((a', v') :: cs') b) : a' ≤ a := by
  obtain ⟨-, hsize, hv, -⟩ := cellsWf_cons_iff.mp h
  obtain ⟨-, -, -, hcs'⟩ := cellsWf_cons_iff.mp h'
  by_contra hlt
  have hread := heq a hsize
  rw [readCell_cons_same, readCell_cons_ne v' cs' (by omega), readCell_of_lt hcs' (by omega)] at hread
  exact hv hread

/-- A list in the form that lists something does not read like the empty one. -/
theorem readCell_ne_of_cons {lo size a : Nat} {v : Byte} {cs : List Host.Cell}
    (h : cellsWf lo size ((a, v) :: cs) = true) : ¬ ∀ b, b < size → readCell ((a, v) :: cs) b = Memory.unlisted := by
  obtain ⟨-, hsize, hv, -⟩ := cellsWf_cons_iff.mp h
  intro hzero
  exact hv ((readCell_cons_same a v cs).symm.trans (hzero a hsize))

/-- Two lists in the form that read the same are one list. -/
theorem cells_ext {lo size : Nat} {cs cs' : List Host.Cell} (h : cellsWf lo size cs = true)
    (h' : cellsWf lo size cs' = true) (heq : ∀ b, b < size → readCell cs b = readCell cs' b) : cs = cs' := by
  induction cs generalizing lo cs' with
  | nil =>
    cases cs' with
    | nil => rfl
    | cons c' cs' => exact absurd (fun b hb => (heq b hb).symm) (readCell_ne_of_cons h')
  | cons c cs ih =>
    cases cs' with
    | nil => exact absurd heq (readCell_ne_of_cons h)
    | cons c' cs' =>
      obtain ⟨a, v⟩ := c
      obtain ⟨a', v'⟩ := c'
      obtain rfl : a = a' := Nat.le_antisymm (head_le_of_readCell_eq h' h fun b hb => (heq b hb).symm)
        (head_le_of_readCell_eq h h' heq)
      obtain ⟨-, hsize, -, hcs⟩ := cellsWf_cons_iff.mp h
      obtain ⟨-, -, -, hcs'⟩ := cellsWf_cons_iff.mp h'
      have hhead := heq a hsize
      rw [readCell_cons_same, readCell_cons_same] at hhead
      have htail : cs = cs' := ih hcs hcs' fun b hb => by
        obtain rfl | hne := eq_or_ne b a
        · rw [readCell_of_lt hcs b.lt_succ_self, readCell_of_lt hcs' b.lt_succ_self]
        · rw [← readCell_cons_ne v cs hne, heq b hb, readCell_cons_ne v' cs' hne]
      rw [hhead, htail]

/-- Settles O23: memories in the form are their size and one list. -/
theorem canonicalMemoriesEqual : Obligations.CanonicalMemoriesEqual := by
  rintro ⟨size, cs⟩ ⟨_, cs'⟩ h h' rfl heq
  exact congrArg (Memory.mk size) (cells_ext h h' heq)

end Sys2Proof.MemoryAccess
end

section
/-!
What an instruction depends on (spec 10_state.md R24, 40_fsm_dispatch.md R136, R140). Two states that agree on what an
instruction may read (`Agrees`: the registers it names, memory, and the flag for a conditional jump) are changed by it
in the same way (`exec_sameChange`): pc, the other registers and the output never matter. Each statement takes the
second state to differ from the first in one component.
-/
namespace Sys2Proof.Noninterference
open Sys2Proof.Machine

/-! ### Agreeing states, and the same change to both -/

/-- The second state agrees with the first on everything the instruction may read. -/
structure Agrees (i : Instr) (s s' : State) : Prop where
  count : s'.numRegs = s.numRegs
  named : ∀ k ∈ i.regIndices, s'.reg k = s.reg k
  mem   : s'.mem = s.mem
  flag  : instrOpcode i = 19 ∨ instrOpcode i = 20 → s'.flag = s.flag

/-- A jump taken with this flag (R240). -/
abbrev TakesJump (i : Instr) (flag : Bool) : Prop :=
  instrOpcode i = 18 ∨ (instrOpcode i = 19 ∧ flag = true) ∨ (instrOpcode i = 20 ∧ flag = false)

/-- Both states are changed in one of the forms of `Effect`, with the same values. -/
inductive SameChange (i : Instr) (s s' : State) : State → State → Prop where
  | fault (r : Reason) : SameChange i s s' (s.raise r) (s'.raise r)
  | writeReg (r : Nat) (v : Word) (hr : destReg i = some r) :
      SameChange i s s' (s.setReg r v).advance (s'.setReg r v).advance
  | writeFlag (b : Bool) (ho : 12 ≤ instrOpcode i ∧ instrOpcode i ≤ 17) :
      SameChange i s s' (s.setFlag b).advance (s'.setFlag b).advance
  | store (m : Memory) (ho : 4 ≤ instrOpcode i ∧ instrOpcode i ≤ 6) :
      SameChange i s s' (s.setMem m).advance (s'.setMem m).advance
  | jump (target : Word) (ho : TakesJump i s.flag) : SameChange i s s' (s.jumpTo target) (s'.jumpTo target)
  | fall (ho : 18 ≤ instrOpcode i ∧ instrOpcode i ≤ 20) (hj : ¬ TakesJump i s.flag) :
      SameChange i s s' s.advance s'.advance
  | print (record : List Byte) (ho : instrOpcode i = 21) :
      SameChange i s s' (s.emit record).advance (s'.emit record).advance
  | halt (hi : i = .hlt) : SameChange i s s' s.halt s'.halt

/-- Both answers are next states, got by the same change. -/
def SameAnswer (i : Instr) (s s' : State) (o o' : Result) : Prop :=
  ∃ t t', o = .next t ∧ o' = .next t' ∧ SameChange i s s' t t'

/-! ### One lemma per shared operation -/

section
variable {i : Instr} {s s' : State}

theorem raise_same (r : Reason) : SameAnswer i s s' (.next (s.raise r)) (.next (s'.raise r)) :=
  ⟨_, _, rfl, rfl, .fault r⟩

theorem writeAndAdvance_same {r : Nat} {v v' : Word} (hr : destReg i = some r) (hv : v' = v) :
    SameAnswer i s s' (writeAndAdvance r v s) (writeAndAdvance r v' s') := by
  subst hv
  exact ⟨_, _, rfl, rfl, .writeReg r v' hr⟩

theorem aluAndAdvance_same {f : AluOp} {r : Nat} {a a' b b' : Word} (hr : destReg i = some r) (ha : a' = a)
    (hb : b' = b) : SameAnswer i s s' (aluAndAdvance f r a b s) (aluAndAdvance f r a' b' s') := by
  subst ha hb
  unfold aluAndAdvance
  split
  · exact raise_same _
  · exact writeAndAdvance_same hr rfl

theorem flagAndAdvance_same {b b' : Bool} (ho : 12 ≤ instrOpcode i ∧ instrOpcode i ≤ 17) (hb : b' = b) :
    SameAnswer i s s' (flagAndAdvance b s) (flagAndAdvance b' s') := by
  subst hb
  exact ⟨_, _, rfl, rfl, .writeFlag b' ho⟩

end

/-- The instruction is a jump with this condition (R240). -/
abbrev OpcodeOfCond (i : Instr) (c : Cond) : Prop :=
  (c = .always ∧ instrOpcode i = 18) ∨ (c = .ifSet ∧ instrOpcode i = 19) ∨ (c = .ifClear ∧ instrOpcode i = 20)

theorem condHolds_iff_takesJump {i : Instr} {c : Cond} (hc : OpcodeOfCond i c) (flag : Bool) :
    condHolds c flag = true ↔ TakesJump i flag := by
  obtain ⟨rfl, hop⟩ | ⟨rfl, hop⟩ | ⟨rfl, hop⟩ := hc <;> simp [TakesJump, condHolds, hop]

section
variable {i : Instr} {s s' : State} (h : Agrees i s s')
include h

/-- JMP's condition does not read the flag, and for the others the flags agree. -/
theorem condHolds_of_agrees {c : Cond} (hc : OpcodeOfCond i c) : condHolds c s'.flag = condHolds c s.flag := by
  obtain ⟨rfl, -⟩ | ⟨rfl, hop⟩ | ⟨rfl, hop⟩ := hc
  · rfl
  · rw [h.flag (.inl hop)]
  · rw [h.flag (.inr hop)]

theorem checkRegs_same {idx : List Nat} {k k' : Result} (hk : SameAnswer i s s' k k') :
    SameAnswer i s s' (checkRegs idx s k) (checkRegs idx s' k') := by
  obtain ⟨hin, e⟩ | ⟨hout, e⟩ := checkRegs_cases idx s k
  · rw [e, checkRegs_pass k' (h.count.symm ▸ hin)]
    exact hk
  · rw [e, checkRegs_fail k' (h.count.symm ▸ hout)]
    exact raise_same _

theorem withRead_same {wd : Width} {a a' : Word} {k k' : Word → Result} (ha : a' = a)
    (hk : ∀ v, SameAnswer i s s' (k v) (k' v)) : SameAnswer i s s' (withRead wd a s k) (withRead wd a' s' k') := by
  subst ha
  obtain ⟨hin, e⟩ | ⟨hout, e⟩ := withRead_cases wd a' s k
  · rw [e, withRead_pass k' (h.mem.symm ▸ hin), h.mem]
    exact hk _
  · rw [e, withRead_fail k' (h.mem.symm ▸ hout)]
    exact raise_same _

theorem withValRV_same {m : Mode} {v : BitVec 16} {k k' : Word → Result}
    (hv : m = .register → v.toNat ∈ i.regIndices) (hk : ∀ b, SameAnswer i s s' (k b) (k' b)) :
    SameAnswer i s s' (withValRV m v s k) (withValRV m v s' k') := by
  cases m with
  | immediate => exact hk _
  | direct => exact withRead_same h rfl hk
  | register =>
    rw [withValRV, withValRV, h.named _ (hv rfl)]
    exact hk _

theorem withTarget24_same {m : Mode} {v : BitVec 24} {k k' : Word → Result}
    (hv : m = .register → v.toNat ∈ i.regIndices) (hk : ∀ b, SameAnswer i s s' (k b) (k' b)) :
    SameAnswer i s s' (withTarget24 m v s k) (withTarget24 m v s' k') := by
  cases m with
  | immediate => exact hk _
  | direct => exact withRead_same h rfl hk
  | register =>
    rw [withTarget24, withTarget24, h.named _ (hv rfl)]
    exact hk _

theorem storeAndAdvance_same {wd : Width} {a a' v v' : Word} (ho : 4 ≤ instrOpcode i ∧ instrOpcode i ≤ 6)
    (ha : a' = a) (hv : v' = v) : SameAnswer i s s' (storeAndAdvance wd a v s) (storeAndAdvance wd a' v' s') := by
  subst ha hv
  unfold storeAndAdvance
  rw [h.mem]
  split
  · exact ⟨_, _, rfl, rfl, .store _ ho⟩
  · exact raise_same _

theorem scanAndAdvance_same {a : Word} (ho : instrOpcode i = 21) :
    SameAnswer i s s' (scanAndAdvance a s) (scanAndAdvance a s') := by
  unfold scanAndAdvance
  rw [h.mem]
  split
  · cases s.mem.string a.toNat with
    | some record => exact ⟨_, _, rfl, rfl, .print record ho⟩
    | none => exact raise_same _
  · exact raise_same _

theorem jumpTarget_same {c : Cond} {m : Mode} {v : BitVec 24} (hc : OpcodeOfCond i c)
    (hv : m = .register → v.toNat ∈ i.regIndices) :
    SameAnswer i s s' (jumpTarget c m v s) (jumpTarget c m v s') := by
  unfold jumpTarget
  rw [condHolds_of_agrees h hc]
  split
  · next htaken =>
    exact withTarget24_same h hv fun t => ⟨_, _, rfl, rfl, .jump t ((condHolds_iff_takesJump hc _).mp htaken)⟩
  · next hnot =>
    have hop : 18 ≤ instrOpcode i ∧ instrOpcode i ≤ 20 := by
      obtain ⟨-, hop⟩ | ⟨-, hop⟩ | ⟨-, hop⟩ := hc <;> omega
    exact ⟨_, _, rfl, rfl, .fall hop fun hj => hnot ((condHolds_iff_takesJump hc _).mpr hj)⟩

/-! ### Every instruction -/

/-- Agreeing states are changed in the same way: each meaning is put together from operations that do so. -/
theorem exec_same : SameAnswer i s s' (exec i s) (exec i s') := by
  cases i with
  | igl => exact raise_same _
  | hlt => exact ⟨_, _, rfl, rfl, .halt rfl⟩
  | ldi _ _ | ldhi _ _ | ldbi _ _ => exact checkRegs_same h (writeAndAdvance_same rfl rfl)
  | ldd _ _ | ldhd _ _ | ldbd _ _ =>
    exact checkRegs_same h (withRead_same h rfl fun _ => writeAndAdvance_same rfl rfl)
  | ldr _ v | ldhr _ v | ldbr _ v =>
    have hea : eaRegister v s' = eaRegister v s := h.named _ (by simp [Instr.regIndices])
    exact checkRegs_same h (withRead_same h hea fun _ => writeAndAdvance_same rfl rfl)
  | strd r _ | strhd r _ | strbd r _ =>
    have hr : s'.reg r.toNat = s.reg r.toNat := h.named _ (by simp [Instr.regIndices])
    exact checkRegs_same h (storeAndAdvance_same h (by simp [instrOpcode, encode]) rfl hr)
  | strr r v | strhr r v | strbr r v =>
    have hr : s'.reg r.toNat = s.reg r.toNat := h.named _ (by simp [Instr.regIndices])
    have hea : eaRegister v s' = eaRegister v s := h.named _ (by simp [Instr.regIndices])
    exact checkRegs_same h (storeAndAdvance_same h (by simp [instrOpcode, encode]) hea hr)
  | mov _ rs =>
    exact checkRegs_same h (writeAndAdvance_same rfl (h.named _ (by simp [Instr.regIndices])))
  | addi rd _ | addd rd _ | subi rd _ | subd rd _ | muli rd _ | muld rd _ | divi rd _ | divd rd _ =>
    have hrd : s'.reg rd.toNat = s.reg rd.toNat := h.named _ (by simp [Instr.regIndices])
    exact checkRegs_same h (withValRV_same h nofun fun _ => aluAndAdvance_same rfl hrd rfl)
  | addr _ rs1 rs2 | subr _ rs1 rs2 | mulr _ rs1 rs2 | divr _ rs1 rs2 =>
    have hrs1 : s'.reg rs1.toNat = s.reg rs1.toNat := h.named _ (by simp [Instr.regIndices])
    have hrs2 : s'.reg rs2.toNat = s.reg rs2.toNat := h.named _ (by simp [Instr.regIndices])
    exact checkRegs_same h (aluAndAdvance_same rfl hrs1 hrs2)
  | eqi r _ | eqd r _ | neqi r _ | neqd r _ | gti r _ | gtd r _ | gtei r _ | gted r _ | lti r _ | ltd r _
  | ltei r _ | lted r _ =>
    have hr : s'.reg r.toNat = s.reg r.toNat := h.named _ (by simp [Instr.regIndices])
    exact checkRegs_same h (withValRV_same h nofun fun _ =>
      flagAndAdvance_same (by simp [instrOpcode, encode]) (by rw [hr]))
  | eqr r _ | neqr r _ | gtr r _ | gter r _ | ltr r _ | lter r _ =>
    have hr : s'.reg r.toNat = s.reg r.toNat := h.named _ (by simp [Instr.regIndices])
    exact checkRegs_same h (withValRV_same h (by simp [Instr.regIndices]) fun _ =>
      flagAndAdvance_same (by simp [instrOpcode, encode]) (by rw [hr]))
  | jmpi _ | jmpd _ | jmpei _ | jmped _ | jmpnei _ | jmpned _ =>
    simp only [exec, execJmpi, execJmpd, execJmpei, execJmped, execJmpnei, execJmpned]
    exact jumpTarget_same h (by simp [OpcodeOfCond, instrOpcode, encode]) nofun
  | jmpr _ | jmper _ | jmpner _ =>
    exact checkRegs_same h
      (jumpTarget_same h (by simp [OpcodeOfCond, instrOpcode, encode]) (by simp [Instr.regIndices]))
  | prtsi _ | prtsd _ =>
    simp only [exec, execPrtsi, execPrtsd]
    exact withTarget24_same h nofun fun _ => scanAndAdvance_same h (by simp [instrOpcode, encode])
  | prtsr _ =>
    exact checkRegs_same h (withTarget24_same h (by simp [Instr.regIndices]) fun _ =>
      scanAndAdvance_same h (by simp [instrOpcode, encode]))

/-- The second state's answer, from the first's. -/
theorem sameChange_of_exec {t : State} (ht : exec i s = .next t) :
    ∃ t', exec i s' = .next t' ∧ SameChange i s s' t t' := by
  obtain ⟨u, t', hu, ht', hc⟩ := exec_same h
  obtain rfl : t = u := Host.Outcome.next.inj (ht.symm.trans hu)
  exact ⟨t', ht', hc⟩

end

/-! ### States that differ in one component -/

theorem agrees_setPc (i : Instr) (s : State) (p : Word) : Agrees i s { s with pc := p } :=
  ⟨rfl, fun _ _ => rfl, rfl, fun _ => rfl⟩

theorem agrees_setFlag {i : Instr} (s : State) (b : Bool) (h : ¬ (instrOpcode i = 19 ∨ instrOpcode i = 20)) :
    Agrees i s { s with flag := b } :=
  ⟨rfl, fun _ _ => rfl, rfl, fun ho => absurd ho h⟩

theorem agrees_setReg {i : Instr} (s : State) {k : Nat} (v : Word) (hk : k ∉ i.regIndices) :
    Agrees i s (s.setReg k v) where
  count := State.setReg_numRegs s k v
  named j hj := State.setReg_reg_ne s k j v fun e => hk (e ▸ hj)
  mem := rfl
  flag _ := rfl

/-- Loads, MOV and arithmetic have a destination; no comparison and no jump has. -/
theorem opcode_of_destReg {i : Instr} {r : Nat} (h : destReg i = some r) :
    (1 ≤ instrOpcode i ∧ instrOpcode i ≤ 3) ∨ (7 ≤ instrOpcode i ∧ instrOpcode i ≤ 11) :=
  (destReg_isSome i).mp (by rw [h]; rfl)

/-! ### The flag (R24) -/

/-- Settles O10: an instruction that is no comparison keeps the flag, by what it writes; of the forms of a same change,
only the flag written is a completing comparison's, and it overwrites the difference. -/
theorem onlyComparisonsWriteFlag : Obligations.OnlyComparisonsWriteFlag := by
  refine ⟨fun i s t ht => (StepEffects.writesOnly_of_effect (StepEffects.effect_of_exec ht)).flag,
    fun i s t b hlo hhi hr ht hrun => ?_⟩
  obtain ⟨t', ht', hc⟩ := sameChange_of_exec (agrees_setFlag s b (by omega)) ht
  rw [ht']
  cases hc with
  | writeFlag => rfl
  | fault => exact nomatch hrun
  | writeReg r _ hd =>
    have hop := opcode_of_destReg hd
    omega
  | store _ ho => omega
  | jump _ ho => omega
  | fall ho => omega
  | print _ ho => omega
  | halt => exact nomatch hrun

/-- Settles O11: the two states are changed in the same way, whatever their flags. -/
theorem flagReadOnlyByConditionalJumps : Obligations.FlagReadOnlyByConditionalJumps := by
  intro i s t b h19 h20 ht
  obtain ⟨u, hu, hc⟩ := sameChange_of_exec (agrees_setFlag s b (by omega)) ht
  refine ⟨u, hu, ?_⟩
  cases hc <;> rfl

/-! ### The program counter (R22, R136) -/

/-- From a running state a jump that is taken and completes sets pc without reading it. -/
theorem exec_setPc_of_takesJump {i : Instr} {s t : State} (hrun : t.status = .running) (hj : TakesJump i s.flag)
    (ht : exec i s = .next t) (p : Word) : exec i { s with pc := p } = .next t := by
  obtain ⟨t', ht', hc⟩ := sameChange_of_exec (agrees_setPc i s p) ht
  rw [ht']
  cases hc with
  | jump => rfl
  | fault => exact nomatch hrun
  | writeReg r _ hd =>
    have hop := opcode_of_destReg hd
    omega
  | writeFlag _ ho => omega
  | store _ ho => omega
  | fall _ hnot => exact absurd hj hnot
  | print _ ho => omega
  | halt => exact nomatch hrun

/-- An instruction that completes and takes no jump advances pc. -/
theorem pc_of_effect {i : Instr} {s t : State} (he : Effect i s t) (hrun : t.status = .running)
    (hj : ¬ TakesJump i s.flag) : t.pc = s.pc + 4 := by
  cases he with
  | jump _ ho => exact absurd ho hj
  | fault | halt => exact nomatch hrun
  | writeReg | writeFlag | store | fall | print => rfl

/-- Settles O14: faults and HLT by their forms, the rest by whether a jump is taken. -/
theorem pcAfterInstruction : Obligations.PcAfterInstruction := by
  intro i s t hr ht
  have he := StepEffects.effect_of_exec ht
  refine ⟨fun hf => ?_, fun hi => ?_, fun hrun hj => ?_, fun hrun h19 hflag => ?_, fun hrun h20 hflag => ?_,
    fun hrun hj => exec_setPc_of_takesJump hrun hj ht⟩
  · obtain ⟨r, -, rfl⟩ := StepEffects.eq_raise_of_effect hr he hf
    rfl
  · subst hi
    cases ht
    exact ⟨rfl, rfl⟩
  · exact pc_of_effect he hrun (by omega)
  · exact pc_of_effect he hrun (by simp [TakesJump, h19, hflag])
  · exact pc_of_effect he hrun (by simp [TakesJump, h20, hflag])

/-! ### Registers (R140) -/

/-- Settles O15: the same change to both states, and the only register it can write is a named one. -/
theorem unnamedRegistersDoNotMatter : Obligations.UnnamedRegistersDoNotMatter := by
  intro i s t k v hk ht
  obtain ⟨t', ht', hc⟩ := sameChange_of_exec (agrees_setReg s v hk) ht
  rw [ht']
  cases hc with
  | writeReg r w hr =>
    have hne : k ≠ r := fun e => hk (e ▸ destReg_mem_regIndices hr)
    simp only [State.setReg, State.advance, List.set_comm _ _ hne]
  | fault | writeFlag | store | jump | fall | print | halt => rfl

end Sys2Proof.Noninterference
end

section
/-!
The layout of an assembled image (spec 30_encoding.md R97, 95_test_vectors.md S2, S3). Pass one keeps one entry per
instruction statement, pass two gives one word per entry, and each word is the encoding of an instruction, which the
decoder reads back.
-/
namespace Sys2Proof.Assembly
open Sys2Proof.Machine

/-! ### Results that are not errors -/

theorem ok_of_bind_eq_ok {ε α β : Type} {x : Except ε α} {f : α → Except ε β} {b : β} (h : (x >>= f) = .ok b) :
    ∃ a, x = .ok a ∧ f a = .ok b := by
  cases x with
  | error e => exact nomatch h
  | ok a => exact ⟨a, rfl, h⟩

theorem ok_of_atLine_eq_ok {α : Type} {line : Nat} {x : Except AsmError α} {a : α} (h : atLine line x = .ok a) :
    x = .ok a := by
  cases x with
  | error e => exact nomatch h
  | ok b => cases h; rfl

/-! ### Pass one: one entry per instruction statement -/

/-- The line holds an instruction statement. -/
def holdsInstr (l : SourceLine) : Bool :=
  match l.statement with
  | some (.instruction _ _) => true
  | _ => false

/-- A label definition adds no code. -/
theorem define_code {p q : PassOne} {label : Option String} (h : p.define label = .ok q) : q.code = p.code := by
  cases label with
  | none =>
    obtain rfl : p = q := Except.ok.inj h
    rfl
  | some name =>
    simp only [PassOne.define] at h
    split at h
    · exact nomatch h
    · obtain rfl := Except.ok.inj h
      rfl

/-- A directive switches the section or emits bytes: it adds no code. -/
theorem add_directive_code {p q : PassOne} {line : Nat} {name : String} {args : List Operand}
    (h : p.add line (some (.directive name args)) = .ok q) : q.code = p.code := by
  unfold PassOne.add at h
  split at h
  · next hst => exact nomatch hst
  · obtain rfl := Except.ok.inj h
    rfl
  · obtain rfl := Except.ok.inj h
    rfl
  · exact nomatch h
  · exact nomatch h
  · split at h
    · obtain ⟨bytes, -, hq⟩ := ok_of_bind_eq_ok h
      obtain rfl := Except.ok.inj hq
      rfl
    · exact nomatch h
  · next hst => exact nomatch hst

theorem add_instruction_code {p q : PassOne} {line : Nat} {mnemonic : String} {operands : List Operand}
    (h : p.add line (some (.instruction mnemonic operands)) = .ok q) :
    q.code = p.code ++ [(line, mnemonic, operands)] := by
  simp only [PassOne.add] at h
  split at h
  · exact nomatch h
  · obtain rfl := Except.ok.inj h
    rfl

/-- A line adds an entry to the code exactly if it holds an instruction. -/
theorem add_code_length {p q : PassOne} {line : Nat} {l : SourceLine} (h : p.add line l.statement = .ok q) :
    q.code.length = p.code.length + (if holdsInstr l then 1 else 0) := by
  unfold holdsInstr
  cases hl : l.statement with
  | none =>
    rw [hl] at h
    obtain rfl : p = q := Except.ok.inj h
    rfl
  | some st =>
    rw [hl] at h
    cases st with
    | directive name args => rw [add_directive_code h]; rfl
    | instruction mnemonic operands => rw [add_instruction_code h]; simp

theorem passOne_code_length {line : Nat} {p q : PassOne} {ls : List SourceLine} (h : passOne line p ls = .ok q) :
    q.code.length = p.code.length + (ls.filter holdsInstr).length := by
  induction ls generalizing line p with
  | nil =>
    obtain rfl : p = q := Except.ok.inj h
    rfl
  | cons l ls ih =>
    obtain ⟨r, hr, hrest⟩ := ok_of_bind_eq_ok h
    obtain ⟨d, hd, ha⟩ := ok_of_bind_eq_ok (ok_of_atLine_eq_ok hr)
    rw [ih hrest, add_code_length ha, define_code hd, List.filter_cons]
    split
    · rw [List.length_cons]; omega
    · rfl

/-! ### Pass two: one encoded instruction per entry -/

theorem passTwo_words {labels : List (String × Nat)} {entries : List (Nat × String × List Operand)} {ws : List Word}
    (h : passTwo labels entries = .ok ws) : ws.length = entries.length ∧ ∀ w ∈ ws, ∃ i, encode i = w := by
  induction entries generalizing ws with
  | nil =>
    obtain rfl : [] = ws := Except.ok.inj h
    exact ⟨rfl, nofun⟩
  | cons e entries ih =>
    obtain ⟨i, -, hi⟩ := ok_of_bind_eq_ok h
    obtain ⟨vs, hvs, hws⟩ := ok_of_bind_eq_ok hi
    obtain rfl : encode i :: vs = ws := Except.ok.inj hws
    obtain ⟨hlen, hall⟩ := ih hvs
    exact ⟨congrArg (· + 1) hlen, List.forall_mem_cons.mpr ⟨⟨i, rfl⟩, hall⟩⟩

/-! ### Alignment -/

theorem alignPadding_length (cursor n : Nat) :
    (alignPadding cursor n).length = (2 ^ n - cursor % 2 ^ n) % 2 ^ n := List.length_replicate

theorem add_alignPadding_mod (cursor n : Nat) : (cursor + (alignPadding cursor n).length) % 2 ^ n = 0 := by
  have hlt : cursor % 2 ^ n < 2 ^ n := Nat.mod_lt _ (Nat.two_pow_pos n)
  calc (cursor + (alignPadding cursor n).length) % 2 ^ n
    _ = (cursor % 2 ^ n + (2 ^ n - cursor % 2 ^ n)) % 2 ^ n := by
      rw [alignPadding_length, Nat.add_mod_mod, Nat.mod_add_mod]
    _ = 0 := by rw [Nat.add_sub_cancel' hlt.le, Nat.mod_self]

/-- Settles O51: the two passes count the instruction statements, and decoding undoes encoding. -/
theorem assembledImageLayout : Obligations.AssembledImageLayout := by
  refine ⟨fun source img h => ?_, fun cursor n => ⟨?_, add_alignPadding_mod cursor n⟩⟩
  · obtain ⟨p, hp, hrest⟩ := ok_of_bind_eq_ok h
    obtain ⟨ws, hws, himg⟩ := ok_of_bind_eq_ok hrest
    obtain rfl := Except.ok.inj himg
    obtain ⟨hlen, hall⟩ := passTwo_words hws
    have hcount : p.code.length = (source.filter holdsInstr).length := by
      simpa using passOne_code_length hp
    refine ⟨rfl, hlen.trans hcount, fun w hw => ?_⟩
    obtain ⟨i, rfl⟩ := hall w hw
    exact ⟨i, DataTransfer.decodeWord_encode i, rfl⟩
  · rw [alignPadding_length]
    exact Nat.mod_lt _ (Nat.two_pow_pos n)

end Sys2Proof.Assembly
end
